-- ==== Sys2Proof/Word.lean ====
section
/-! DEFINITION. The word types and the small fixed vocabularies the whole model shares:
bytes, command words, floating patterns, channels, floating formats and bus events. -/

namespace Sys2Proof

/-- One byte of the sensor space (20_memory R50). -/
abbrev Byte := BitVec 8

/-- A command word `CW` (30_encoding R80). -/
abbrev Word := BitVec 32

/-- A floating bit pattern, right-aligned: all 64 bits in binary64, the low 32 bits in binary32
with the upper 32 bits zero (log 11). -/
abbrev Pattern := BitVec 64

/-- The two channels: 0 = pressure, 1 = temperature (00_scope R19). -/
inductive Channel where
  | pressure
  | temperature
deriving DecidableEq, Repr, Inhabited

/-- The two admitted instances of the parameter `FMT` (00_scope R8). -/
inductive Fmt where
  | binary32
  | binary64
deriving DecidableEq, Repr, Inhabited

/-- What the oracle `Sensor` sees (20_memory R57): bus transactions and sleeps. -/
inductive BusEvent where
  /-- One bus transaction (R53, R54): the outgoing frame and the incoming frame of equal length,
  or `none` when the transport reported a failure (R55). -/
  | transfer (out : List Byte) (answer : Option (List Byte))
  /-- `Sleep(ms)` (R56). -/
  | sleep (ms : Nat)
  /-- `RST` abandoned a command that uses the bus: the transaction with this outgoing frame, or the
  sleep (`none`), that it had come to was cut at an unspecified point (70_reset R221, log 9). -/
  | cut (out : Option (List Byte))
deriving DecidableEq, Repr

end Sys2Proof
end

