-- ==== Sys2Proof/Syntax.lean ====
section
/-! DEFINITION. The commands of the engine: one constructor per row of spec/opcode_table.json, in the
table's order (30_encoding R83). The six assembler aliases of R88 are spellings of these. -/

namespace Sys2Proof

/-- One command with its operands as 30_encoding R82 takes them from `sel` and `imm`. `WRF`'s data word
is not an operand of the command word: it comes in `DIN` (R80). -/
inductive Instr where
  | sext12 (v : BitVec 12)
  | sext16 (v : BitVec 16)
  | sext20 (v : BitVec 20)
  | sext24 (v : BitVec 24)
  | ldcal
  | rdcoef (k : BitVec 4)
  | setos (ch : Channel) (level : BitVec 3)
  | setraw (ch : Channel) (v : BitVec 24)
  | ldrawp
  | ldrawt
  | rdraw (ch : Channel)
  | compt
  | compp
  | alt
  | sealvl
  | wrf (r : BitVec 4)
  | rdf (r : BitVec 4)
  | rdstat
deriving DecidableEq, Repr

end Sys2Proof
end

