-- ==== Sys2Proof/WellFormed.lean ====
section
/-! DEFINITION. Which commands have an encoding: the range conditions on `sel` of 30_encoding R82, R83.
Every other operand's range is its type's. -/

namespace Sys2Proof

/-- The operand ranges of 30_encoding R82 that a type does not already say: a coefficient index is
0 to 8, a floating register index 0 to 4. -/
def Instr.wf : Instr → Bool
  | .sext12 _ => true
  | .sext16 _ => true
  | .sext20 _ => true
  | .sext24 _ => true
  | .ldcal => true
  | .rdcoef k => decide (k.toNat ≤ 8)
  | .setos _ _ => true
  | .setraw _ _ => true
  | .ldrawp => true
  | .ldrawt => true
  | .rdraw _ => true
  | .compt => true
  | .compp => true
  | .alt => true
  | .sealvl => true
  | .wrf r => decide (r.toNat ≤ 4)
  | .rdf r => decide (r.toNat ≤ 4)
  | .rdstat => true

/-- A command that 30_encoding gives a word. -/
abbrev Instr.WellFormed (i : Instr) : Prop := i.wf = true

end Sys2Proof
end

