-- ==== Sys2Proof/Decode.lean ====
section
/-! DEFINITION. The decoder, total on command words and rejecting by name, then the encoder, both
written from the tables of 30_encoding R80, R82 and R83. -/

namespace Sys2Proof

/-- Why a command word is illegal (30_encoding R85). All of them raise `IllegalCommand`. -/
inductive DecodeError where
  /-- `op` 0x0 or 0xF (R86). -/
  | reservedOp
  /-- `sel` outside the operation's range. -/
  | badSelector
  /-- A nonzero bit in a part of `imm` that must be 0. -/
  | nonzeroImm
deriving DecidableEq, Repr

/-- `op`, bits 31:28 (R80). -/
def opOf (w : Word) : BitVec 4 := w.extractLsb' 28 4

/-- `sel`, bits 27:24 (R80). -/
def selOf (w : Word) : BitVec 4 := w.extractLsb' 24 4

/-- `imm`, bits 23:0 (R80). -/
def immOf (w : Word) : BitVec 24 := w.extractLsb' 0 24

/-- A command with no operand: `sel` must be 0 and `imm` must be 0 (R82). -/
def decodePlain (sel : BitVec 4) (imm : BitVec 24) (i : Instr) : Except DecodeError Instr :=
  if sel ≠ 0#4 then .error .badSelector
  else if imm ≠ 0#24 then .error .nonzeroImm
  else .ok i

/-- `op` = 0x1: `sel` is the width code, `imm[23:N]` must be 0 (R82, R106). -/
def decodeSext (sel : BitVec 4) (imm : BitVec 24) : Except DecodeError Instr :=
  if sel = 0#4 then
    if imm.extractLsb' 12 12 ≠ 0#12 then .error .nonzeroImm else .ok (.sext12 (imm.extractLsb' 0 12))
  else if sel = 1#4 then
    if imm.extractLsb' 16 8 ≠ 0#8 then .error .nonzeroImm else .ok (.sext16 (imm.extractLsb' 0 16))
  else if sel = 2#4 then
    if imm.extractLsb' 20 4 ≠ 0#4 then .error .nonzeroImm else .ok (.sext20 (imm.extractLsb' 0 20))
  else if sel = 3#4 then .ok (.sext24 imm)
  else .error .badSelector

/-- A channel operand: `sel` 0 is pressure, 1 is temperature (R82). -/
def channelOf (sel : BitVec 4) : Except DecodeError Channel :=
  if sel = 0#4 then .ok .pressure
  else if sel = 1#4 then .ok .temperature
  else .error .badSelector

/-- `op` = 0x4: `imm[2:0]` is the level, `imm[23:3]` must be 0 (R82). -/
def decodeSetos (sel : BitVec 4) (imm : BitVec 24) : Except DecodeError Instr :=
  match channelOf sel with
  | .error e => .error e
  | .ok ch =>
    if imm.extractLsb' 3 21 ≠ 0#21 then .error .nonzeroImm
    else .ok (.setos ch (imm.extractLsb' 0 3))

/-- `op` = 0x5: every bit of `imm` is operand (R82). -/
def decodeSetraw (sel : BitVec 4) (imm : BitVec 24) : Except DecodeError Instr :=
  match channelOf sel with
  | .error e => .error e
  | .ok ch => .ok (.setraw ch imm)

/-- `op` = 0x6: `sel` 0 is `LDRAWP`, 1 is `LDRAWT` (R83). -/
def decodeLdraw (sel : BitVec 4) (imm : BitVec 24) : Except DecodeError Instr :=
  match channelOf sel with
  | .error e => .error e
  | .ok ch =>
    if imm ≠ 0#24 then .error .nonzeroImm
    else match ch with
      | .pressure => .ok .ldrawp
      | .temperature => .ok .ldrawt

/-- `op` = 0x7 (R82). -/
def decodeRdraw (sel : BitVec 4) (imm : BitVec 24) : Except DecodeError Instr :=
  match channelOf sel with
  | .error e => .error e
  | .ok ch => if imm ≠ 0#24 then .error .nonzeroImm else .ok (.rdraw ch)

/-- `op` = 0x3, 0xC, 0xD: `sel` is an index up to `bound`, `imm` must be 0 (R82). -/
def decodeIndexed (bound : Nat) (sel : BitVec 4) (imm : BitVec 24) (i : BitVec 4 → Instr) :
    Except DecodeError Instr :=
  if bound < sel.toNat then .error .badSelector
  else if imm ≠ 0#24 then .error .nonzeroImm
  else .ok (i sel)

/-- The decoder: it looks at `CW` only, never at `DIN` or the state (R84). -/
def decode (w : Word) : Except DecodeError Instr :=
  let sel := selOf w
  let imm := immOf w
  match (opOf w).toNat with
  | 0x1 => decodeSext sel imm
  | 0x2 => decodePlain sel imm .ldcal
  | 0x3 => decodeIndexed 8 sel imm .rdcoef
  | 0x4 => decodeSetos sel imm
  | 0x5 => decodeSetraw sel imm
  | 0x6 => decodeLdraw sel imm
  | 0x7 => decodeRdraw sel imm
  | 0x8 => decodePlain sel imm .compt
  | 0x9 => decodePlain sel imm .compp
  | 0xA => decodePlain sel imm .alt
  | 0xB => decodePlain sel imm .sealvl
  | 0xC => decodeIndexed 4 sel imm .wrf
  | 0xD => decodeIndexed 4 sel imm .rdf
  | 0xE => decodePlain sel imm .rdstat
  | _ => .error .reservedOp

/-- The word with these three fields (R80). -/
def wordOf (op sel : BitVec 4) (imm : BitVec 24) : Word := op ++ sel ++ imm

/-- A channel as a selector (R82). -/
def selOfChannel : Channel → BitVec 4
  | .pressure => 0#4
  | .temperature => 1#4

/-- The command word of a well-formed command (R82, R83). -/
def encode : Instr → Word
  | .sext12 v => wordOf 0x1#4 0#4 (v.setWidth 24)
  | .sext16 v => wordOf 0x1#4 1#4 (v.setWidth 24)
  | .sext20 v => wordOf 0x1#4 2#4 (v.setWidth 24)
  | .sext24 v => wordOf 0x1#4 3#4 v
  | .ldcal => wordOf 0x2#4 0#4 0#24
  | .rdcoef k => wordOf 0x3#4 k 0#24
  | .setos ch level => wordOf 0x4#4 (selOfChannel ch) (level.setWidth 24)
  | .setraw ch v => wordOf 0x5#4 (selOfChannel ch) v
  | .ldrawp => wordOf 0x6#4 0#4 0#24
  | .ldrawt => wordOf 0x6#4 1#4 0#24
  | .rdraw ch => wordOf 0x7#4 (selOfChannel ch) 0#24
  | .compt => wordOf 0x8#4 0#4 0#24
  | .compp => wordOf 0x9#4 0#4 0#24
  | .alt => wordOf 0xA#4 0#4 0#24
  | .sealvl => wordOf 0xB#4 0#4 0#24
  | .wrf r => wordOf 0xC#4 r 0#24
  | .rdf r => wordOf 0xD#4 r 0#24
  | .rdstat => wordOf 0xE#4 0#4 0#24

/-- One row of the opcode map of 30_encoding R83: a word `w` spells it when `w &&& mask = pattern` and
its `sel` is at most `selMax`. -/
structure OpcodeRow where
  mnemonic : String
  pattern : Word
  mask : Word
  selMax : Nat
deriving DecidableEq, Repr

/-- The opcode map, row by row (30_encoding R83, spec/opcode_table.json). -/
def opcodeRows : List OpcodeRow :=
  [ ⟨"SEXT12", 0x10000000#32, 0xFFFFF000#32, 15⟩,
    ⟨"SEXT16", 0x11000000#32, 0xFFFF0000#32, 15⟩,
    ⟨"SEXT20", 0x12000000#32, 0xFFF00000#32, 15⟩,
    ⟨"SEXT24", 0x13000000#32, 0xFF000000#32, 15⟩,
    ⟨"LDCAL", 0x20000000#32, 0xFFFFFFFF#32, 15⟩,
    ⟨"RDCOEF", 0x30000000#32, 0xF0FFFFFF#32, 8⟩,
    ⟨"SETOS", 0x40000000#32, 0xFEFFFFF8#32, 15⟩,
    ⟨"SETRAW", 0x50000000#32, 0xFE000000#32, 15⟩,
    ⟨"LDRAWP", 0x60000000#32, 0xFFFFFFFF#32, 15⟩,
    ⟨"LDRAWT", 0x61000000#32, 0xFFFFFFFF#32, 15⟩,
    ⟨"RDRAW", 0x70000000#32, 0xFEFFFFFF#32, 15⟩,
    ⟨"COMPT", 0x80000000#32, 0xFFFFFFFF#32, 15⟩,
    ⟨"COMPP", 0x90000000#32, 0xFFFFFFFF#32, 15⟩,
    ⟨"ALT", 0xA0000000#32, 0xFFFFFFFF#32, 15⟩,
    ⟨"SEALVL", 0xB0000000#32, 0xFFFFFFFF#32, 15⟩,
    ⟨"WRF", 0xC0000000#32, 0xF0FFFFFF#32, 4⟩,
    ⟨"RDF", 0xD0000000#32, 0xF0FFFFFF#32, 4⟩,
    ⟨"RDSTAT", 0xE0000000#32, 0xFFFFFFFF#32, 15⟩ ]

/-- The word spells this row. -/
def OpcodeRow.spells (row : OpcodeRow) (w : Word) : Bool :=
  decide (w &&& row.mask = row.pattern) && decide ((selOf w).toNat ≤ row.selMax)

/-- The mnemonic of a command, as the opcode table spells it. -/
def Instr.mnemonic : Instr → String
  | .sext12 _ => "SEXT12"
  | .sext16 _ => "SEXT16"
  | .sext20 _ => "SEXT20"
  | .sext24 _ => "SEXT24"
  | .ldcal => "LDCAL"
  | .rdcoef _ => "RDCOEF"
  | .setos _ _ => "SETOS"
  | .setraw _ _ => "SETRAW"
  | .ldrawp => "LDRAWP"
  | .ldrawt => "LDRAWT"
  | .rdraw _ => "RDRAW"
  | .compt => "COMPT"
  | .compp => "COMPP"
  | .alt => "ALT"
  | .sealvl => "SEALVL"
  | .wrf _ => "WRF"
  | .rdf _ => "RDF"
  | .rdstat => "RDSTAT"

/-- The command the decoder reads from an instruction of `nbits` bits `w`, numbered as
spec/opcode_table.json numbers them. A command is one 32-bit word and the port has no byte order
(20_memory R64), so the word is given to the decoder as it stands. -/
def decodeTableWord (nbits w : Nat) : Option Instr :=
  match decode (BitVec.ofNat 32 (w % 2 ^ nbits)) with
  | .ok i => some i
  | .error _ => none

end Sys2Proof
end

