-- ==== Sys2Proof/Config.lean ====
section
/-! DEFINITION. What the spec leaves to the implementation or leaves open: every constant here is
opaque and has no body, so no proof can see a value. A claim holds for every value of each. -/

namespace Sys2Proof

/-- Parameter `FMT` (00_scope R8, decision D6). DESIGN CHOICE, log 1. Safe. -/
opaque Config.fmt : Fmt

/-- Any eight 24-bit numbers; `Config.scale` makes an admissible `SCALE` table of them. -/
opaque Config.scaleRaw : Nat → BitVec 24

/-- Parameter `SCALE[0..7]`: eight positive integers below 2^24 (00_scope R8). Every admissible table
is `Config.scale` of some `Config.scaleRaw`, and no inadmissible one is. DESIGN CHOICE, log 2. Safe. -/
def Config.scale : Vector (BitVec 24) 8 :=
  Vector.ofFn fun i => if Config.scaleRaw i.val = 0#24 then 1#24 else Config.scaleRaw i.val

/-- What `fpow` is built from (00_scope R14). `Machine.fpow` puts P1 to P3 on it. Log 3. Safe. -/
opaque Config.powRaw : Fmt → Pattern → Pattern → Pattern

/-- The oracle `Sensor`: whether the transport reports a failure for this outgoing frame after this
history (20_memory R55, R57). Log 4. Safe. -/
opaque Config.sensorFails : List BusEvent → List Byte → Bool

/-- The oracle `Sensor`: byte `i` of the incoming frame for this outgoing frame after this history
(20_memory R57). Log 4. Safe. -/
opaque Config.sensorByte : List BusEvent → List Byte → Nat → Byte

/-- Parameter `T_CS`, the chip-select settle time; no rule depends on it (00_scope R8). Log 5. Safe. -/
opaque Config.tCs : Nat

/-- The content of coefficient register `k` while `CALV = 0`: an arbitrary value that no rule reads
(10_state R40, R41). DESIGN CHOICE, log 6. -/
opaque Config.unwrittenCoef : Nat → BitVec 20

/-- The content of a raw register while its valid bit is 0 (10_state R40, R41). Log 6. -/
opaque Config.unwrittenRaw : Channel → BitVec 24

/-- The content of a level register while its valid bit is 0 (10_state R40, R41). Log 6. -/
opaque Config.unwrittenLevel : Channel → BitVec 3

/-- The content of floating register `r` while its valid bit is 0 (10_state R40, R41). Log 6. -/
opaque Config.unwrittenFloat : Nat → Pattern

/-- The pattern of a computed NaN. No computing command writes one (93 U12). Log 12. Safe. -/
opaque Config.nanBits : Fmt → Pattern

/-- What stands on the `DIN` port before the host presents a command. Log 27. Safe. -/
opaque Config.portDin : Pattern

/-- The host's timing-budget predicate of rates and levels: pressure rate, pressure level,
temperature rate, temperature level (60_exceptions R202, 93 U18). Log 17. Safe. -/
opaque Config.budgetOk : BitVec 3 → BitVec 3 → BitVec 3 → BitVec 3 → Bool

/-- Bit 7 of the configuration byte the host writes, which the source does not state
(60_exceptions R203, 91 N10). Log 18. Safe. -/
opaque Config.configBit7 : Channel → List BusEvent → Bool

/-- The host's rate before any accepted `configureChannel` (91 N20). Log 16. Safe. -/
opaque Config.hostRate : Channel → BitVec 3

/-- The host's level before any accepted `configureChannel` (91 N20). Log 16. Safe. -/
opaque Config.hostLevel : Channel → BitVec 3

/-- The level the host gives a channel's `SETOS` after a sensor reset, when the sensor's configuration
is "whatever the sensor resets to (not in SRC)" (60_exceptions R204). DESIGN CHOICE, log 30. Safe. -/
opaque Config.levelAfterReset : Channel → List BusEvent → BitVec 3

end Sys2Proof
end

