-- ==== Sys2Proof/Machine/Float.lean ====
section
/-! DEFINITION. The floating arithmetic of 00_scope R11 in either admitted `FMT`: IEEE 754 binary
data, and each operation as the exact result rounded once, to nearest, ties to even. -/

namespace Sys2Proof

/-- Precision in bits, the leading bit included. -/
def Fmt.prec : Fmt → Nat
  | .binary32 => 24
  | .binary64 => 53

/-- The least positive datum is `2 ^ (-quantum)`, and every finite datum is a whole number of these. -/
def Fmt.quantum : Fmt → Nat
  | .binary32 => 149
  | .binary64 => 1074

/-- `FLEN`, the width of the format in bits (00_scope R8). -/
def Fmt.flen : Fmt → Nat
  | .binary32 => 32
  | .binary64 => 64

/-- The pattern of infinity without its sign bit: finite magnitudes are the patterns below it, NaNs
the patterns above it. -/
def Fmt.infMag : Fmt → Nat
  | .binary32 => 0x7F800000
  | .binary64 => 0x7FF0000000000000

/-- A pattern cut to `FLEN` bits. -/
def Fmt.low (fmt : Fmt) (b : Pattern) : Pattern :=
  match fmt with
  | .binary32 => (b.setWidth 32).setWidth 64
  | .binary64 => b

/-- The values of a format: NaN (its payload is nowhere observable, 93 U12), the infinities, and the
finite values, each its sign and the pattern of its magnitude. -/
inductive FloatVal where
  | nan
  | inf (neg : Bool)
  | fin (neg : Bool) (mag : Nat)
deriving DecidableEq, Repr, Inhabited

namespace FloatVal

/-- A magnitude pattern of the format is below infinity's. -/
def wf (fmt : Fmt) : FloatVal → Bool
  | .nan => true
  | .inf _ => true
  | .fin _ mag => decide (mag < fmt.infMag)

/-- `finite(x)` of 00_scope R11: neither a NaN nor an infinity. -/
def finite : FloatVal → Bool
  | .nan => false
  | .inf _ => false
  | .fin _ _ => true

/-- `x < 0`; false for a NaN and for both zeros (44_altitude R160). -/
def ltZero : FloatVal → Bool
  | .nan => false
  | .inf neg => neg
  | .fin neg mag => neg && decide (mag ≠ 0)

/-- A zero of either sign. -/
def isZero : FloatVal → Bool
  | .nan => false
  | .inf _ => false
  | .fin _ mag => decide (mag = 0)

/-- The sign bit (a NaN's counts as clear). -/
def sign : FloatVal → Bool
  | .nan => false
  | .inf neg => neg
  | .fin neg _ => neg

/-- The same magnitude with the other sign. -/
def neg : FloatVal → FloatVal
  | .nan => .nan
  | .inf n => .inf (!n)
  | .fin n mag => .fin (!n) mag

end FloatVal

/-- The magnitude of a pattern in units of the least positive datum. The exponent field is
`mag / 2^(prec-1)`; 0 marks a subnormal (gradual underflow, 93 U14). -/
def unitsOf (fmt : Fmt) (mag : Nat) : Nat :=
  let e := mag / 2 ^ (fmt.prec - 1)
  let f := mag % 2 ^ (fmt.prec - 1)
  if e = 0 then f else (2 ^ (fmt.prec - 1) + f) * 2 ^ (e - 1)

/-- The value of a datum as a rational; of a non-finite one, nothing. -/
def FloatVal.toRat? (fmt : Fmt) : FloatVal → Option Rat
  | .nan => none
  | .inf _ => none
  | .fin neg mag =>
    let m : Rat := (unitsOf fmt mag : Rat) / (2 ^ fmt.quantum : Nat)
    some (if neg then -m else m)

/-- `num / den` rounded to the nearest natural number, ties to even. -/
def roundHalfEven (num den : Nat) : Nat :=
  let q := num / den
  let r := num % den
  if 2 * r < den then q
  else if den < 2 * r then q + 1
  else q + q % 2

/-- The datum nearest to `num / den` units, ties to even, with the given sign; infinity where that
rounds past the greatest finite datum (00_scope R11). -/
def roundTo (fmt : Fmt) (neg : Bool) (num den : Nat) : FloatVal :=
  let k := Nat.log2 (num / den) - (fmt.prec - 1)
  let mag := k * 2 ^ (fmt.prec - 1) + roundHalfEven num (den * 2 ^ k)
  if mag < fmt.infMag then .fin neg mag else .inf neg

/-- `of_int(i)` of 00_scope R11. -/
def ofInt (fmt : Fmt) (i : Int) : FloatVal :=
  roundTo fmt (decide (i < 0)) (i.natAbs * 2 ^ fmt.quantum) 1

/-- `fconst(q)` for the literal `q = num / den`, negative where `neg` (00_scope R11, R12). -/
def fconst (fmt : Fmt) (neg : Bool) (num den : Nat) : FloatVal :=
  roundTo fmt neg (num * 2 ^ fmt.quantum) den

/-- The sum of two finite data: a sum that is exactly zero is +0 unless both operands are -0. -/
def addFinite (fmt : Fmt) (na : Bool) (ma : Nat) (nb : Bool) (mb : Nat) : FloatVal :=
  let a := unitsOf fmt ma
  let b := unitsOf fmt mb
  if na = nb then roundTo fmt na (a + b) 1
  else if b < a then roundTo fmt na (a - b) 1
  else if a < b then roundTo fmt nb (b - a) 1
  else .fin false 0

/-- `fadd` of 00_scope R11. -/
def fadd (fmt : Fmt) (x y : FloatVal) : FloatVal :=
  match x, y with
  | .nan, _ => .nan
  | .inf _, .nan => .nan
  | .fin _ _, .nan => .nan
  | .inf a, .inf b => if a = b then .inf a else .nan
  | .inf a, .fin _ _ => .inf a
  | .fin _ _, .inf b => .inf b
  | .fin na ma, .fin nb mb => addFinite fmt na ma nb mb

/-- `fsub` of 00_scope R11. -/
def fsub (fmt : Fmt) (x y : FloatVal) : FloatVal := fadd fmt x y.neg

/-- `fmul` of 00_scope R11. -/
def fmul (fmt : Fmt) (x y : FloatVal) : FloatVal :=
  match x, y with
  | .nan, _ => .nan
  | .inf _, .nan => .nan
  | .fin _ _, .nan => .nan
  | .inf a, .inf b => .inf (a ^^ b)
  | .inf a, .fin nb mb => if mb = 0 then .nan else .inf (a ^^ nb)
  | .fin na ma, .inf b => if ma = 0 then .nan else .inf (na ^^ b)
  | .fin na ma, .fin nb mb =>
    roundTo fmt (na ^^ nb) (unitsOf fmt ma * unitsOf fmt mb) (2 ^ fmt.quantum)

/-- `fdiv` of 00_scope R11. -/
def fdiv (fmt : Fmt) (x y : FloatVal) : FloatVal :=
  match x, y with
  | .nan, _ => .nan
  | .inf _, .nan => .nan
  | .fin _ _, .nan => .nan
  | .inf _, .inf _ => .nan
  | .inf a, .fin nb _ => .inf (a ^^ nb)
  | .fin na _, .inf b => .fin (na ^^ b) 0
  | .fin na ma, .fin nb mb =>
    if mb = 0 then (if ma = 0 then .nan else .inf (na ^^ nb))
    else roundTo fmt (na ^^ nb) (unitsOf fmt ma * 2 ^ fmt.quantum) (unitsOf fmt mb)

/-- The value of a pattern; only its low `FLEN` bits count. -/
def FloatVal.ofBits (fmt : Fmt) (b : Pattern) : FloatVal :=
  let n := b.toNat % 2 ^ fmt.flen
  let neg := decide (2 ^ (fmt.flen - 1) ≤ n)
  let mag := n % 2 ^ (fmt.flen - 1)
  if mag < fmt.infMag then .fin neg mag
  else if mag = fmt.infMag then .inf neg
  else .nan

/-- The pattern of a value. A computed NaN's pattern is free; no command writes one (log 12). -/
def FloatVal.toBits (fmt : Fmt) : FloatVal → Pattern
  | .nan => fmt.low (Config.nanBits fmt)
  | .inf neg => BitVec.ofNat 64 (neg.toNat * 2 ^ (fmt.flen - 1) + fmt.infMag)
  | .fin neg mag => BitVec.ofNat 64 (neg.toNat * 2 ^ (fmt.flen - 1) + mag)

/-- A finite value that is an odd whole number (00_scope R14, P3). -/
def FloatVal.isOddInteger (fmt : Fmt) : FloatVal → Bool
  | .nan => false
  | .inf _ => false
  | .fin _ mag =>
    decide (unitsOf fmt mag % 2 ^ fmt.quantum = 0 ∧ unitsOf fmt mag / 2 ^ fmt.quantum % 2 = 1)

/-- The nearest thing to a value that is a number `>= 0`: onto the results P2 allows. -/
def FloatVal.atLeastZero : FloatVal → FloatVal
  | .nan => .inf false
  | .inf _ => .inf false
  | .fin neg mag => if mag = 0 then .fin neg mag else .fin false mag

/-- `fpow` of 00_scope R14: a total function of its operands of which only P1, P2 and P3 are known.
The free function `Config.powRaw` decides the rest; every function with P1 to P3 arises. Log 3. -/
def fpow (fmt : Fmt) (x y : FloatVal) : FloatVal :=
  let raw := FloatVal.ofBits fmt (Config.powRaw fmt (x.toBits fmt) (y.toBits fmt))
  if x = ofInt fmt 1 ∧ y.finite then ofInt fmt 1                              -- P1
  else if x.isZero ∧ y.finite ∧ !y.isZero ∧ !y.ltZero ∧ !y.isOddInteger fmt then .fin false 0   -- P3
  else if x.isZero ∧ y.ltZero then .inf raw.sign                              -- P3
  else if x.finite ∧ !x.isZero ∧ !x.ltZero ∧ y.finite then raw.atLeastZero    -- P2
  else raw

end Sys2Proof
end

