-- ==== Sys2Proof/Machine/State.lean ====
section
/-! DEFINITION. The state of the machine, all of it plain data: the engine's architectural state
(10_state R20), the command port (00_scope R16), and what surrounds the engine (the host's next
actions and memory, the sensor oracle's description, the bus history). Then the state after reset. -/

namespace Sys2Proof.Machine

/-- The six status codes of 60_exceptions R181. Codes 6 to 15 do not exist (93 U2). -/
inductive Status where
  | ok
  | busError
  | illegalCommand
  | calNotValid
  | operandUnwritten
  | domainError
deriving DecidableEq, Repr

/-- The response to a command: `ST` and `DOUT` (30_encoding R81). `DOUT` has max(32, FLEN) bits; in
binary32 its upper 32 bits here are zero (log 11). -/
structure Response where
  st : Status
  dout : BitVec 64
deriving DecidableEq, Repr

/-- A register with its valid bit (10_state R32). While `valid` is false no rule reads `val`. -/
structure Reg (w : Nat) where
  valid : Bool
  val : BitVec w
deriving DecidableEq, Repr

/-- The nine coefficient registers `C[0..8]`, two's complement of the stated width (10_state R22). -/
structure Coefs where
  c0 : BitVec 12
  c1 : BitVec 12
  c00 : BitVec 20
  c10 : BitVec 20
  c01 : BitVec 16
  c11 : BitVec 16
  c20 : BitVec 16
  c21 : BitVec 16
  c30 : BitVec 16
deriving DecidableEq, Repr

/-- The names of the five floating registers, in the order of their numbers 0 to 4 (10_state R30). -/
inductive FReg where
  | t
  | p
  | a
  | s
  | h
deriving DecidableEq, Repr

/-- The engine's architectural state, exactly (10_state R20). -/
structure Engine where
  /-- `CALV` (R25). -/
  calv : Bool
  /-- `C[0..8]` (R22). -/
  coefs : Coefs
  /-- `RAW[0]`, `RAWV[0]` (R26). -/
  rawP : Reg 24
  /-- `RAW[1]`, `RAWV[1]` (R26). -/
  rawT : Reg 24
  /-- `OS[0]`, `OSV[0]` (R28). -/
  osP : Reg 3
  /-- `OS[1]`, `OSV[1]` (R28). -/
  osT : Reg 3
  /-- `F[0]` = T, `FV[0]` (R30). -/
  fT : Reg 64
  /-- `F[1]` = P, `FV[1]` (R30). -/
  fP : Reg 64
  /-- `F[2]` = A, `FV[2]` (R30). -/
  fA : Reg 64
  /-- `F[3]` = S, `FV[3]` (R30). -/
  fS : Reg 64
  /-- `F[4]` = H, `FV[4]` (R30). -/
  fH : Reg 64
  /-- `ERR` (R33). -/
  err : Status
deriving DecidableEq, Repr

/-- The parameters of 00_scope R8 that are plain data. No step changes them (log 1, 2). -/
structure Params where
  /-- `FMT`. -/
  fmt : Fmt
  /-- `SCALE[0..7]`. -/
  scale : Vector (BitVec 24) 8
deriving DecidableEq, Repr

/-- One scripted answer of the sensor to one transfer (20_memory R57, log 4): a transport failure, or
the incoming frame's bytes; what the list leaves out comes from the image or is free. -/
inductive Answer where
  | fail
  | frame (bytes : List Byte)
deriving DecidableEq, Repr

/-- The sensor's operating modes, in SRC's order (60_exceptions R201, log 19). -/
inductive OperatingMode where
  | idle
  | pressureOnly
  | temperatureOnly
  | invalid1
  | invalid2
  | continuousPressure
  | continuousTemperature
  | continuousBoth
deriving DecidableEq, Repr

/-- The host's copy of one channel's `{rate, oversampling}` (10_state R28, 60_exceptions R203). -/
structure ChannelConfig where
  rate : BitVec 3
  level : BitVec 3
deriving DecidableEq, Repr

/-- What the host does when the port is free (00_scope R16; 60_exceptions Part 3; log 15). -/
inductive HostAction where
  /-- Present a command. -/
  | command (cw : Word) (din : Pattern)
  /-- One register read (R200). -/
  | readReg (addr : Byte)
  /-- One register write (R200). -/
  | writeReg (addr : Byte) (v : Byte)
  /-- `setMode` (R201). -/
  | setMode (mode : OperatingMode)
  /-- `configureChannel` (R203). -/
  | configureChannel (ch : Channel) (rate level : BitVec 3)
  /-- `reset()` of the sensor: the write and the settle (R204). -/
  | sensorReset
  /-- The sensor-ready wait that ends `reset()` (R204). -/
  | waitSensorReady
  /-- `waitMeasurementAvailable` (R205). -/
  | waitMeasurement (pollInterval : Nat)
  /-- The product-id check (R206). -/
  | checkProductId
deriving DecidableEq, Repr

/-- How a host duty ended (60_exceptions R182). -/
inductive HostResult where
  | ok
  | value (b : Byte)
  | busError
  | unexpectedDeviceId
  | invalidMode
  | invalidRateOversamplingCombination
deriving DecidableEq, Repr

/-- How far the `LDCAL` at the port has come (41_calibration R112, R113): what its next step does. A
step does one bus transaction or one sleep, so that `RST` can fall between any two (log 8, 9). -/
inductive LdcalPhase where
  /-- Read MEAS_STATUS: where the command begins. -/
  | poll
  /-- Sleep after a poll without coef-ready. -/
  | sleep
  /-- Read the block after a poll with coef-ready. -/
  | block
deriving DecidableEq, Repr

/-- The whole machine. `eng` is the engine's own state; the rest is its port and its surroundings. -/
structure State where
  /-- The parameters `FMT` and `SCALE` (00_scope R8). -/
  params : Params
  /-- The engine's architectural state (10_state R20). -/
  eng : Engine
  /-- The command word at the port: presented or executing; none when the engine is idle (R80). -/
  cw : Option Word
  /-- How far the `LDCAL` at the port has come; `poll` whenever none is under way. -/
  phase : LdcalPhase
  /-- The data word at the port (R80). -/
  din : Pattern
  /-- The responses given since the last reset, oldest first (R81, 70_reset R242). -/
  responses : List Response
  /-- The `RST` input at the coming steps, the next step first; deasserted when the list ends
  (70_reset R220, log 9). -/
  rst : List Bool
  /-- What the host does next, oldest first; taken only while the port is free (R16, R72). -/
  pending : List HostAction
  /-- The host's copy of the pressure channel's configuration (60_exceptions R203). -/
  hostP : ChannelConfig
  /-- The host's copy of the temperature channel's configuration. -/
  hostT : ChannelConfig
  /-- The results of the host's duties, oldest first. -/
  hostLog : List HostResult
  /-- The sensor's scripted answers, one per transfer (20_memory R57, log 4). -/
  script : List Answer
  /-- The sensor's static image, in canonical form (20_memory R57, log 26). -/
  image : List Host.Cell
  /-- All bus transactions and sleeps so far, oldest first (20_memory R57, 70_reset R242). -/
  history : List BusEvent
deriving DecidableEq, Repr

/-- Why a step stops the machine. None of them is the engine's: its errors are responses
(60_exceptions R180, R183). -/
inductive Fault where
  /-- Raised by a host register access outside the sensor space 0x00 to 0x7F (20_memory R50, R53).
  Safe: the spec defines no such transaction. Log 24. -/
  | noSuchAddress
deriving DecidableEq, Repr

/-- Why a step has no meaning. -/
inductive Refusal where
  /-- Raised by no arm: every command has its meaning. Safe. -/
  | notModelled (mnemonic : String)
deriving DecidableEq, Repr

/-- The engine after reset (10_state R40). A register without a value holds an arbitrary one that its
valid bit hides (R41, log 6). -/
def Engine.reset (fmt : Fmt) : Engine where
  calv := false
  coefs := {
    c0 := (Config.unwrittenCoef 0).setWidth 12
    c1 := (Config.unwrittenCoef 1).setWidth 12
    c00 := Config.unwrittenCoef 2
    c10 := Config.unwrittenCoef 3
    c01 := (Config.unwrittenCoef 4).setWidth 16
    c11 := (Config.unwrittenCoef 5).setWidth 16
    c20 := (Config.unwrittenCoef 6).setWidth 16
    c21 := (Config.unwrittenCoef 7).setWidth 16
    c30 := (Config.unwrittenCoef 8).setWidth 16 }
  rawP := ⟨false, Config.unwrittenRaw .pressure⟩
  rawT := ⟨false, Config.unwrittenRaw .temperature⟩
  osP := ⟨false, Config.unwrittenLevel .pressure⟩
  osT := ⟨false, Config.unwrittenLevel .temperature⟩
  fT := ⟨false, fmt.low (Config.unwrittenFloat 0)⟩
  fP := ⟨false, fmt.low (Config.unwrittenFloat 1)⟩
  fA := ⟨false, fmt.low (Config.unwrittenFloat 2)⟩
  fS := ⟨true, (fconst fmt false 101325 100).toBits fmt⟩
  fH := ⟨false, fmt.low (Config.unwrittenFloat 4)⟩
  err := .ok

/-- The machine right after power-up with these parameters (70_reset R220, R223): the engine at reset,
no command at the port, nothing done on the bus, nothing chosen for the host or the sensor. -/
def State.resetWith (params : Params) : State where
  params := params
  eng := Engine.reset params.fmt
  cw := none
  phase := .poll
  din := params.fmt.low Config.portDin
  responses := []
  rst := []
  pending := []
  hostP := ⟨Config.hostRate .pressure, Config.hostLevel .pressure⟩
  hostT := ⟨Config.hostRate .temperature, Config.hostLevel .temperature⟩
  hostLog := []
  script := []
  image := []
  history := []

/-- The machine right after reset, with the parameters the spec leaves open. -/
def State.reset : State := State.resetWith ⟨Config.fmt, Config.scale⟩

end Sys2Proof.Machine
end

