-- ==== Sys2Proof/Machine/Operands.lean ====
section
/-! DEFINITION. The integer functions the commands are made of: the sign-extension primitive, the
24-bit sample, the calibration block's unpacking and packing, and register selection by number. -/

namespace Sys2Proof.Machine

/-- `sext_N(v)` for `0 <= v < 2^N` (40_sign_extension R100): subtract `2^N` when `v` exceeds
`2^(N-1) - 1`, a strict comparison. -/
def sext (n v : Nat) : Int :=
  if v > 2 ^ (n - 1) - 1 then (v : Int) - 2 ^ n else v

/-- `tc32(i)`: the 32-bit two's-complement pattern (00_scope R10). -/
def tc32 (i : Int) : BitVec 32 := BitVec.ofInt 32 i

/-- `tc32(i)` on `DOUT`: bits 31:0, and 0 above (30_encoding R81). -/
def doutInt (i : Int) : BitVec 64 := (tc32 i).setWidth 64

/-- Byte `i` of a frame's payload, as an unsigned number. Used at positions the frame has. -/
def byteAt (b : List Byte) (i : Nat) : Nat := (b.getD i 0#8).toNat

/-- `b[7:4]` (00_scope R9). -/
def hiNibble (b : List Byte) (i : Nat) : Nat := byteAt b i / 16

/-- `b[3:0]` (00_scope R9). -/
def loNibble (b : List Byte) (i : Nat) : Nat := byteAt b i % 16

/-- A 16-bit quantity at position `i`, most significant byte first (20_memory R64, R65). -/
def be16 (b : List Byte) (i : Nat) : Nat := byteAt b i * 256 + byteAt b (i + 1)

/-- `assemble24(b)` (42_raw_and_config R125). -/
def assemble24 (b : List Byte) : Int :=
  sext 24 (byteAt b 0 * 65536 + byteAt b 1 * 256 + byteAt b 2)

/-- `unpack_cal(b)` (41_calibration R110, R111): each field's signed value, held in a register of the
field's width. -/
def unpackCal (b : List Byte) : Coefs where
  c0 := BitVec.ofInt 12 (sext 12 (byteAt b 0 * 16 + hiNibble b 1))
  c1 := BitVec.ofInt 12 (sext 12 (loNibble b 1 * 256 + byteAt b 2))
  c00 := BitVec.ofInt 20 (sext 20 (byteAt b 3 * 4096 + byteAt b 4 * 16 + hiNibble b 5))
  c10 := BitVec.ofInt 20 (sext 20 (loNibble b 5 * 65536 + byteAt b 6 * 256 + byteAt b 7))
  c01 := BitVec.ofInt 16 (sext 16 (be16 b 8))
  c11 := BitVec.ofInt 16 (sext 16 (be16 b 10))
  c20 := BitVec.ofInt 16 (sext 16 (be16 b 12))
  c21 := BitVec.ofInt 16 (sext 16 (be16 b 14))
  c30 := BitVec.ofInt 16 (sext 16 (be16 b 16))

/-- The two bytes of a 16-bit coefficient, most significant first. -/
def bytes16 (c : BitVec 16) : List Byte := [c.extractLsb' 8 8, c.extractLsb' 0 8]

/-- `pack_cal(c)` (41_calibration R115): each coefficient's two's-complement pattern in the positions of
the table of R116. -/
def packCal (c : Coefs) : List Byte :=
  [ c.c0.extractLsb' 4 8,
    c.c0.extractLsb' 0 4 ++ c.c1.extractLsb' 8 4,
    c.c1.extractLsb' 0 8,
    c.c00.extractLsb' 12 8,
    c.c00.extractLsb' 4 8,
    c.c00.extractLsb' 0 4 ++ c.c10.extractLsb' 16 4,
    c.c10.extractLsb' 8 8,
    c.c10.extractLsb' 0 8 ]
  ++ bytes16 c.c01 ++ bytes16 c.c11 ++ bytes16 c.c20 ++ bytes16 c.c21 ++ bytes16 c.c30

/-- The signed value of coefficient `k` (10_state R22); none for an index above 8. -/
def Coefs.read (c : Coefs) (k : BitVec 4) : Option Int :=
  match k.toNat with
  | 0 => some c.c0.toInt
  | 1 => some c.c1.toInt
  | 2 => some c.c00.toInt
  | 3 => some c.c10.toInt
  | 4 => some c.c01.toInt
  | 5 => some c.c11.toInt
  | 6 => some c.c20.toInt
  | 7 => some c.c21.toInt
  | 8 => some c.c30.toInt
  | _ => none

/-- The floating register of a selector (10_state R30, 30_encoding R82); none above 4. -/
def FReg.ofSel (r : BitVec 4) : Option FReg :=
  match r.toNat with
  | 0 => some .t
  | 1 => some .p
  | 2 => some .a
  | 3 => some .s
  | 4 => some .h
  | _ => none

/-- `RAW[ch]` with `RAWV[ch]` (10_state R26). -/
def Engine.raw (e : Engine) : Channel → Reg 24
  | .pressure => e.rawP
  | .temperature => e.rawT

/-- `OS[ch]` with `OSV[ch]` (10_state R28). -/
def Engine.os (e : Engine) : Channel → Reg 3
  | .pressure => e.osP
  | .temperature => e.osT

/-- `F[r]` with `FV[r]` (10_state R30). -/
def Engine.freg (e : Engine) : FReg → Reg 64
  | .t => e.fT
  | .p => e.fP
  | .a => e.fA
  | .s => e.fS
  | .h => e.fH

/-- `RAW[ch] <- v; RAWV[ch] <- 1`. -/
def Engine.setRaw (e : Engine) (ch : Channel) (v : BitVec 24) : Engine :=
  match ch with
  | .pressure => { e with rawP := ⟨true, v⟩ }
  | .temperature => { e with rawT := ⟨true, v⟩ }

/-- `OS[ch] <- level; OSV[ch] <- 1`. -/
def Engine.setOs (e : Engine) (ch : Channel) (level : BitVec 3) : Engine :=
  match ch with
  | .pressure => { e with osP := ⟨true, level⟩ }
  | .temperature => { e with osT := ⟨true, level⟩ }

/-- `F[r] <- v; FV[r] <- 1`. -/
def Engine.setFreg (e : Engine) (r : FReg) (v : Pattern) : Engine :=
  match r with
  | .t => { e with fT := ⟨true, v⟩ }
  | .p => { e with fP := ⟨true, v⟩ }
  | .a => { e with fA := ⟨true, v⟩ }
  | .s => { e with fS := ⟨true, v⟩ }
  | .h => { e with fH := ⟨true, v⟩ }

/-- `C[0..8] <- c, all together; CALV <- 1` (41_calibration R113). -/
def Engine.setCoefs (e : Engine) (c : Coefs) : Engine := { e with calv := true, coefs := c }

end Sys2Proof.Machine
end

