-- ==== Sys2Proof/Machine/Flags.lean ====
section
/-! DEFINITION. The flag-like state: status codes, the sticky error field and the `STATUS` view. The
engine has no condition codes and no arithmetic flags (10_state R32). -/

namespace Sys2Proof.Machine

/-- The 4-bit code of a status (60_exceptions R181). -/
def Status.code : Status → BitVec 4
  | .ok => 0#4
  | .busError => 1#4
  | .illegalCommand => 2#4
  | .calNotValid => 3#4
  | .operandUnwritten => 4#4
  | .domainError => 5#4

/-- `ERR` after a command that ends with status `e`: the first error since reset is kept
(10_state R33). -/
def Status.first (err e : Status) : Status :=
  match err with
  | .ok => e
  | _ => err

/-- One valid bit as a bit. -/
def bit (b : Bool) : BitVec 1 := BitVec.ofBool b

/-- A level as `STATUS` shows it: 0 while its valid bit is 0 (10_state R34). -/
def levelView (r : Reg 3) : BitVec 3 := if r.valid then r.val else 0#3

/-- `STATUS` (10_state R34), from bit 31 down: reserved 31:20, `OS[1]` 19:17, `OS[0]` 16:14, `ERR`
13:10, then `FV[4]` to `FV[0]`, `OSV[1]`, `OSV[0]`, `RAWV[1]`, `RAWV[0]`, `CALV`. -/
def statusWord (e : Engine) : BitVec 32 :=
  0#12 ++ levelView e.osT ++ levelView e.osP ++ e.err.code
    ++ bit e.fH.valid ++ bit e.fS.valid ++ bit e.fA.valid ++ bit e.fP.valid ++ bit e.fT.valid
    ++ bit e.osT.valid ++ bit e.osP.valid ++ bit e.rawT.valid ++ bit e.rawP.valid ++ bit e.calv

end Sys2Proof.Machine
end

