-- ==== Sys2Proof/Machine/Image.lean ====
section
/-! DEFINITION. The static image of the sensor space (20_memory R50, R57): a list of address and byte
pairs in canonical form, addresses strictly rising and below 0x80. An unlisted address reads as no
value: its byte is the oracle's, free (log 26). No step writes the image: what the sensor makes of a
host's write is the oracle's (20_memory R63). -/

namespace Sys2Proof.Machine

/-- Addresses strictly rising from above `low`, all inside the sensor space. -/
def imageSorted (low : Nat) : List Host.Cell → Bool
  | [] => true
  | (a, _) :: rest => decide (low ≤ a) && decide (a < 128) && imageSorted (a + 1) rest

/-- The canonical form. -/
def Image.wf (m : List Host.Cell) : Bool := imageSorted 0 m

/-- The byte the image lists at an address. -/
def Image.read : List Host.Cell → Nat → Option Byte
  | [], _ => none
  | (a, b) :: rest, x => if a = x then some b else Image.read rest x

/-- The image with address `x` listed as `v`; it keeps the canonical form for `x < 128`. It is how an
image is set up; no step calls it. -/
def Image.write : List Host.Cell → Nat → Byte → List Host.Cell
  | [], x, v => [(x, v)]
  | (a, b) :: rest, x, v =>
    if x < a then (x, v) :: (a, b) :: rest
    else if x = a then (a, v) :: rest
    else (a, b) :: Image.write rest x v

/-- Every address of `n` from `a` on is listed. -/
def Image.covers (m : List Host.Cell) (a n : Nat) : Bool :=
  (List.range n).all fun i => (Image.read m (a + i)).isSome

end Sys2Proof.Machine
end

