-- ==== Sys2Proof/Machine/Ops.lean ====
section
/-! DEFINITION. The shared operations: ending a command with a response, raising an error, the bus
primitives `MemRead`, `MemWrite` and `Sleep`, the scale factor, and the reset input. -/

namespace Sys2Proof.Machine

/-! ### Ending a command -/

/-- `respond(v)` (00_scope R15): the command ends with `OK` and `DOUT = v`, and the port is free. -/
def State.respond (s : State) (v : BitVec 64) : State :=
  { s with cw := none, responses := s.responses ++ [⟨.ok, v⟩] }

/-- `raise E` (60_exceptions R183), the one error entry of the machine: no register changes but `ERR`,
which keeps the first error since reset; the response is (`E`, 0), and the port is free. -/
def State.raise (s : State) (e : Status) : State :=
  { s with
    eng := { s.eng with err := s.eng.err.first e }
    cw := none
    responses := s.responses ++ [⟨e, 0#64⟩] }

/-- `LDCAL` goes on executing after this step, and this is what it does next; no other command takes
more than one step (00_scope R16, 60_exceptions R186, log 8). -/
def State.stillExecuting (s : State) (p : LdcalPhase) : State :=
  { s with cw := some (encode .ldcal), phase := p }

/-- `LDCAL` has come to its end. -/
def State.leaveLdcal (s : State) : State := { s with phase := .poll }

/-- The host presents a command: the pair (`CW`, `DIN`) stands at the port, not yet begun (00_scope R16,
30_encoding R80). -/
def State.present (s : State) (w : Word) (d : Pattern) : State :=
  { s with cw := some w, phase := .poll, din := s.params.fmt.low d }

/-! ### The bus -/

/-- The outgoing frame of `MemRead(addr, n)` (20_memory R53): the address with the read flag, then `n`
bytes 0x00. -/
def readFrame (addr : BitVec 7) (n : Nat) : List Byte := (1#1 ++ addr) :: List.replicate n 0#8

/-- The outgoing frame of `MemWrite(addr, 1, v)` (20_memory R54): the read flag clear, then the byte. -/
def writeFrame (addr : BitVec 7) (v : Byte) : List Byte := [0#1 ++ addr, v]

/-- The sensor address a frame names: its first byte without the read flag. -/
def frameAddr (out : List Byte) : Nat := (out.headD 0#8).toNat % 128

/-- Byte `i` of the incoming frame, from the script, else from the image, else free. The byte received
while the address is sent stands for no address. -/
def State.incomingByte (s : State) (out : List Byte) (i : Nat) : Byte :=
  let scripted := match s.script with
    | .frame bytes :: _ => bytes[i]?
    | _ => none
  let listed := match i with
    | 0 => none
    | j + 1 => Image.read s.image (frameAddr out + j)
  match scripted with
  | some b => b
  | none => match listed with
    | some b => b
    | none => Config.sensorByte s.history out i

/-- Whether the transport reports a failure (20_memory R55): the script says; with no script, a
transfer whose addresses the image lists succeeds, any other is the free oracle's. -/
def State.transferFails (s : State) (out : List Byte) : Bool :=
  match s.script with
  | .fail :: _ => true
  | .frame _ :: _ => false
  | [] => !Image.covers s.image (frameAddr out) (out.length - 1) && Config.sensorFails s.history out

/-- What one duplex transfer returns: a frame of the same length, or nothing on a failure (R52). -/
def State.answer (s : State) (out : List Byte) : Option (List Byte) :=
  if s.transferFails out then none
  else some ((List.range out.length).map (s.incomingByte out))

/-- The state after one transaction: the oracle has seen it, and its scripted answer is used up. -/
def State.afterTransfer (s : State) (out : List Byte) : State :=
  { s with script := s.script.tail, history := s.history ++ [.transfer out (s.answer out)] }

/-- What `MemRead(addr, n)` returns (20_memory R53): `b[i] = in[i + 1]`; `in[0]` is ignored. -/
def State.readData (s : State) (addr : BitVec 7) (n : Nat) : Option (List Byte) :=
  (s.answer (readFrame addr n)).map List.tail

/-- The state after `MemRead(addr, n)`. -/
def State.afterRead (s : State) (addr : BitVec 7) (n : Nat) : State :=
  s.afterTransfer (readFrame addr n)

/-- Whether `MemWrite(addr, 1, v)` succeeds (20_memory R54, R55); the incoming frame is ignored. -/
def State.writeOk (s : State) (addr : BitVec 7) (v : Byte) : Bool :=
  (s.answer (writeFrame addr v)).isSome

/-- The state after `MemWrite(addr, 1, v)`. -/
def State.afterWrite (s : State) (addr : BitVec 7) (v : Byte) : State :=
  s.afterTransfer (writeFrame addr v)

/-- `Sleep(ms)` (20_memory R56): no engine state changes; the sensor may move. -/
def State.sleep (s : State) (ms : Nat) : State := { s with history := s.history ++ [.sleep ms] }

/-- What happens on the wires during one transaction (20_memory R53, 70_reset R234). -/
inductive Signal where
  | assertChipSelect
  | hold (tCs : Nat)
  | duplex (out : List Byte) (answer : Option (List Byte))
  | deassertChipSelect
  | idle (ms : Nat)
deriving DecidableEq, Repr

/-- The signals of a bus event: every transaction is framed by chip select and both settle holds
(20_memory R53, R54). What a cut transaction puts on the wires is not in the spec. -/
def busSignals : BusEvent → List Signal
  | .transfer out answer =>
    [.assertChipSelect, .hold Config.tCs, .duplex out answer, .hold Config.tCs, .deassertChipSelect]
  | .sleep ms => [.idle ms]
  | .cut _ => []

/-! ### The scale factor -/

/-- `SCALE[level]` (00_scope R8). -/
def Params.scaleAt (p : Params) (level : BitVec 3) : Nat := (p.scale[level.toNat]'level.isLt).toNat

/-- `SCALE[OS[ch]]`, which `scale(ch)` converts exactly (42_raw_and_config R131). -/
def State.scaleOf (s : State) (ch : Channel) : Nat := s.params.scaleAt (s.eng.os ch).val

/-! ### The reset input -/

/-- The commands that use the bus (20_memory R51). -/
def usesBus : Instr → Bool
  | .sext12 _ => false
  | .sext16 _ => false
  | .sext20 _ => false
  | .sext24 _ => false
  | .ldcal => true
  | .rdcoef _ => false
  | .setos _ _ => false
  | .setraw _ _ => false
  | .ldrawp => true
  | .ldrawt => true
  | .rdraw _ => false
  | .compt => false
  | .compp => false
  | .alt => false
  | .sealvl => false
  | .wrf _ => false
  | .rdf _ => false
  | .rdstat => false

/-- What `RST` cuts when it abandons this command, an `LDCAL` having come to this phase: the transaction
or the sleep that its next step makes (20_memory R51, 70_reset R221). -/
def cutBy (p : LdcalPhase) : Instr → List BusEvent
  | .sext12 _ => []
  | .sext16 _ => []
  | .sext20 _ => []
  | .sext24 _ => []
  | .ldcal =>
    match p with
    | .poll => [.cut (some (readFrame 0x08#7 1))]
    | .sleep => [.cut none]
    | .block => [.cut (some (readFrame 0x10#7 18))]
  | .rdcoef _ => []
  | .setos _ _ => []
  | .setraw _ _ => []
  | .ldrawp => [.cut (some (readFrame 0x00#7 3))]
  | .ldrawt => [.cut (some (readFrame 0x03#7 3))]
  | .rdraw _ => []
  | .compt => []
  | .compp => []
  | .alt => []
  | .sealvl => []
  | .wrf _ => []
  | .rdf _ => []
  | .rdstat => []

/-- What `RST` cuts now: nothing when the port is free or its word is illegal. -/
def State.cutEvents (s : State) : List BusEvent :=
  match s.cw with
  | none => []
  | some w => match decode w with
    | .ok i => cutBy s.phase i
    | .error _ => []

/-- `RST` at the coming step. -/
def State.rstAsserted (s : State) : Bool := s.rst.headD false

/-- One sample of `RST` has gone by. -/
def State.tickRst (s : State) : State := { s with rst := s.rst.tail }

/-- The effect of `RST` (70_reset R220, R221, R222): the engine at its reset values; the command at the
port, if any, abandoned with no response; no bus transaction, though the one that the command had come to
may have been cut. What the command did on the bus before stays in the history (log 9). The responses counted are those since the reset. -/
def State.applyRst (s : State) : State :=
  { s with
    eng := Engine.reset s.params.fmt
    cw := none
    phase := .poll
    responses := []
    history := s.history ++ s.cutEvents }

end Sys2Proof.Machine
end

