-- ==== Sys2Proof/Machine/Altitude.lean ====
section
/-! DEFINITION. The altitude family (44_altitude): `ALT`, `SEALVL`, with the domain checks of R160. -/

namespace Sys2Proof.Machine

/-- `fconst(100)` (00_scope R12). -/
def const100 (fmt : Fmt) : FloatVal := fconst fmt false 100 1

/-- `fconst(44330)` (00_scope R12). -/
def const44330 (fmt : Fmt) : FloatVal := fconst fmt false 44330 1

/-- `fconst(0.1903)` (00_scope R12). -/
def constAltExp (fmt : Fmt) : FloatVal := fconst fmt false 1903 10000

/-- `fconst(-5.255)`, one constant (00_scope R12, D20). -/
def constSeaExp (fmt : Fmt) : FloatVal := fconst fmt true 5255 1000

/-- `u = pressure/100` (R155, R157, R159). -/
def hectopascals (fmt : Fmt) (p : FloatVal) : FloatVal := fdiv fmt p (const100 fmt)

/-- `r`, the base `ALT` hands to the power (R157). -/
def altBase (fmt : Fmt) (p s : FloatVal) : FloatVal := fdiv fmt (hectopascals fmt p) s

/-- `w` of R157. -/
def altPower (fmt : Fmt) (p s : FloatVal) : FloatVal := fpow fmt (altBase fmt p s) (constAltExp fmt)

/-- `alt(p, s)` (R157). -/
def altValue (fmt : Fmt) (p s : FloatVal) : FloatVal :=
  fmul fmt (const44330 fmt) (fsub fmt (ofInt fmt 1) (altPower fmt p s))

/-- `q = altitude/44330` (R159). -/
def seaQuotient (fmt : Fmt) (h : FloatVal) : FloatVal := fdiv fmt h (const44330 fmt)

/-- `b`, the base `SEALVL` hands to the power (R159). -/
def seaBase (fmt : Fmt) (h : FloatVal) : FloatVal := fsub fmt (ofInt fmt 1) (seaQuotient fmt h)

/-- `w` of R159. -/
def seaPower (fmt : Fmt) (h : FloatVal) : FloatVal := fpow fmt (seaBase fmt h) (constSeaExp fmt)

/-- `slp(p, h)` (R159). -/
def seaValue (fmt : Fmt) (p h : FloatVal) : FloatVal :=
  fmul fmt (hectopascals fmt p) (seaPower fmt h)

/-- `alt(p, s)` with the checks of R160, in R160's order; none where `ALT` raises `DomainError`. -/
def altChecked (fmt : Fmt) (p s : FloatVal) : Option FloatVal :=
  if !(p.finite && s.finite) then none
  else if !((hectopascals fmt p).finite && (altBase fmt p s).finite) then none
  else if (altBase fmt p s).ltZero then none
  else if !((altPower fmt p s).finite && (altValue fmt p s).finite) then none
  else some (altValue fmt p s)

/-- `slp(p, h)` with the checks of R160, in R160's order; none where `SEALVL` raises `DomainError`. -/
def seaChecked (fmt : Fmt) (p h : FloatVal) : Option FloatVal :=
  if !(p.finite && h.finite) then none
  else if !((hectopascals fmt p).finite && (seaQuotient fmt h).finite && (seaBase fmt h).finite) then
    none
  else if (seaBase fmt h).ltZero then none
  else if !((seaPower fmt h).finite && (seaValue fmt p h).finite) then none
  else some (seaValue fmt p h)

/-- The value a floating register holds. -/
def State.floatOf (s : State) (r : FReg) : FloatVal := FloatVal.ofBits s.params.fmt (s.eng.freg r).val

/-- What both commands do with a checked result: write it, or raise `DomainError` and write nothing. -/
def finishAltitude (r : FReg) (result : Option FloatVal) (s : State) : State :=
  match result with
  | none => s.raise .domainError
  | some v => { s with eng := s.eng.setFreg r (v.toBits s.params.fmt) }.respond 0#64

/-- `ALT` (R156): reads `P` and `S`, writes `A`. It needs no calibration. -/
def execAlt (s : State) : Host.Outcome State Fault Refusal :=
  .next (
    if !(s.eng.fP.valid && s.eng.fS.valid) then s.raise .operandUnwritten
    else finishAltitude .a (altChecked s.params.fmt (s.floatOf .p) (s.floatOf .s)) s)

/-- `SEALVL` (R158): reads `P` and `H`, writes `S`. It needs no calibration. -/
def execSealvl (s : State) : Host.Outcome State Fault Refusal :=
  .next (
    if !(s.eng.fP.valid && s.eng.fH.valid) then s.raise .operandUnwritten
    else finishAltitude .s (seaChecked s.params.fmt (s.floatOf .p) (s.floatOf .h)) s)

end Sys2Proof.Machine
end

