-- ==== Sys2Proof/Machine/Calibration.lean ====
section
/-! DEFINITION. The calibration family (41_calibration): `LDCAL`, `RDCOEF`. -/

namespace Sys2Proof.Machine

/-- MEAS_STATUS (20_memory R60). -/
def measStatus : BitVec 7 := 0x08#7

/-- The first address of CALIBRATION_BLOCK (20_memory R60). -/
def calBlock : BitVec 7 := 0x10#7

/-- Bit `i` of the one byte a status read returned. -/
def statusBit (b : List Byte) (i : Nat) : Bool := (b.headD 0#8).getLsbD i

/-- The block read that ends `LDCAL`, once coef-ready was seen (41_calibration R113). -/
def loadBlock (s : State) : State :=
  match s.readData calBlock 18 with
  | none => (s.afterRead calBlock 18).leaveLdcal.raise .busError
  | some b =>
    let s' := (s.afterRead calBlock 18).leaveLdcal
    { s' with eng := s'.eng.setCoefs (unpackCal b) }.respond 0#64

/-- One status poll of `LDCAL` (41_calibration R112): a failed poll ends the command with `BusError`;
after coef-ready (bit 7) the block read is next, otherwise the sleep. -/
def pollCoefReady (s : State) : State :=
  match s.readData measStatus 1 with
  | none => (s.afterRead measStatus 1).leaveLdcal.raise .busError
  | some b => (s.afterRead measStatus 1).stillExecuting (if statusBit b 7 then .block else .sleep)

/-- `LDCAL` (R113), one bus transaction or one sleep of it (log 8). -/
def ldcalStep (s : State) : State :=
  match s.phase with
  | .poll => pollCoefReady s
  | .sleep => (s.sleep 20).stillExecuting .poll
  | .block => loadBlock s

/-- `LDCAL` (R113). -/
def execLdcal (s : State) : Host.Outcome State Fault Refusal := .next (ldcalStep s)

/-- `RDCOEF k` (R114). An index above 8 has no word; given one all the same, it is the illegal
command that a `sel` above 8 is (log 13). -/
def execRdcoef (k : BitVec 4) (s : State) : Host.Outcome State Fault Refusal :=
  .next (match s.eng.coefs.read k with
    | none => s.raise .illegalCommand
    | some v => if s.eng.calv then s.respond (doutInt v) else s.raise .calNotValid)

end Sys2Proof.Machine
end

