-- ==== Sys2Proof/Machine/Compensation.lean ====
section
/-! DEFINITION. The compensation family (43_compensation): `COMPT`, `COMPP`. Each line of a formula is
one rounded operation, in the source's order and grouping (R142, R144). -/

namespace Sys2Proof.Machine

/-- `comp_temp(raw, K, c0, c1)` (R142). -/
def compTemp (fmt : Fmt) (raw : Int) (K : Nat) (c0 c1 : Int) : FloatVal :=
  let t1 := fdiv fmt (ofInt fmt raw) (ofInt fmt K)
  let t2 := fmul fmt t1 (ofInt fmt c1)
  let t3 := fdiv fmt (ofInt fmt c0) (fconst fmt false 2 1)
  fadd fmt t2 t3

/-- `comp_pres(rawP, rawT, KP, KT, c)` (R144). -/
def compPres (fmt : Fmt) (rawP rawT : Int) (KP KT : Nat) (c : Coefs) : FloatVal :=
  let st := fdiv fmt (ofInt fmt rawT) (ofInt fmt KT)
  let sp := fdiv fmt (ofInt fmt rawP) (ofInt fmt KP)
  let a1 := fmul fmt sp (ofInt fmt c.c30.toInt)
  let a2 := fadd fmt (ofInt fmt c.c20.toInt) a1
  let a3 := fmul fmt sp a2
  let a4 := fadd fmt (ofInt fmt c.c10.toInt) a3
  let a := fmul fmt sp a4
  let b := fmul fmt st (ofInt fmt c.c01.toInt)
  let g1 := fmul fmt sp st
  let g2 := fmul fmt sp (ofInt fmt c.c21.toInt)
  let g3 := fadd fmt (ofInt fmt c.c11.toInt) g2
  let cc := fmul fmt g1 g3
  let s1 := fadd fmt (ofInt fmt c.c00.toInt) a
  let s2 := fadd fmt s1 b
  fadd fmt s2 cc

/-- The ideal temperature, over the rationals (00_scope R13, R142). -/
def idealTemp (raw : Int) (K : Nat) (c0 c1 : Int) : Rat := raw * c1 / K + c0 / 2

/-- The ideal pressure, over the rationals (00_scope R13, R144). -/
def idealPres (rawP rawT : Int) (KP KT : Nat) (c : Coefs) : Rat :=
  let p : Rat := rawP / KP
  let t : Rat := rawT / KT
  c.c00.toInt + p * (c.c10.toInt + p * (c.c20.toInt + p * c.c30.toInt)) + t * c.c01.toInt
    + p * t * (c.c11.toInt + p * c.c21.toInt)

/-- A raw value and a level are both there for a channel (R140). -/
def channelReady (e : Engine) (ch : Channel) : Bool := (e.raw ch).valid && (e.os ch).valid

/-- `COMPT` (R141), with the operand checks in R140's order. -/
def execCompt (s : State) : Host.Outcome State Fault Refusal :=
  .next (
    if !s.eng.calv then s.raise .calNotValid
    else if !channelReady s.eng .temperature then s.raise .operandUnwritten
    else
      let t := compTemp s.params.fmt s.eng.rawT.val.toInt (s.scaleOf .temperature)
        s.eng.coefs.c0.toInt s.eng.coefs.c1.toInt
      { s with eng := s.eng.setFreg .t (t.toBits s.params.fmt) }.respond 0#64)

/-- `COMPP` (R143), with the operand checks in R140's order. It does not read register `T`. -/
def execCompp (s : State) : Host.Outcome State Fault Refusal :=
  .next (
    if !s.eng.calv then s.raise .calNotValid
    else if !(channelReady s.eng .pressure && channelReady s.eng .temperature) then
      s.raise .operandUnwritten
    else
      let p := compPres s.params.fmt s.eng.rawP.val.toInt s.eng.rawT.val.toInt
        (s.scaleOf .pressure) (s.scaleOf .temperature) s.eng.coefs
      { s with eng := s.eng.setFreg .p (p.toBits s.params.fmt) }.respond 0#64)

end Sys2Proof.Machine
end

