-- ==== Sys2Proof/Machine/HostAccess.lean ====
section
/-! DEFINITION. The host-access family (45_host_access): `WRF`, `RDF`, `RDSTAT`. -/

namespace Sys2Proof.Machine

/-- `WRF r` (R170): the `FLEN`-bit pattern on `DIN`, unchanged. A selector above 4 has no word; given one
all the same, it is the illegal command it would be (log 13). -/
def execWrf (r : BitVec 4) (s : State) : Host.Outcome State Fault Refusal :=
  .next (match FReg.ofSel r with
    | none => s.raise .illegalCommand
    | some f => { s with eng := s.eng.setFreg f (s.params.fmt.low s.din) }.respond 0#64)

/-- `RDF r` (R171): the pattern in `DOUT[FLEN-1:0]`. A selector above 4 is as for `WRF` (log 13). -/
def execRdf (r : BitVec 4) (s : State) : Host.Outcome State Fault Refusal :=
  .next (match FReg.ofSel r with
    | none => s.raise .illegalCommand
    | some f =>
      if (s.eng.freg f).valid then s.respond (s.params.fmt.low (s.eng.freg f).val)
      else s.raise .operandUnwritten)

/-- `RDSTAT` (R172): `STATUS` as it stood before this command. -/
def execRdstat (s : State) : Host.Outcome State Fault Refusal :=
  .next (s.respond ((statusWord s.eng).setWidth 64))

end Sys2Proof.Machine
end

