-- ==== Sys2Proof/Machine/RawConfig.lean ====
section
/-! DEFINITION. The raw-sample and oversampling-level family (42_raw_and_config): `SETOS`, `SETRAW`,
`LDRAWP`, `LDRAWT`, `RDRAW`. -/

namespace Sys2Proof.Machine

/-- `SETOS ch, level` (R126). It makes no timing check and writes no sensor register. -/
def execSetos (ch : Channel) (level : BitVec 3) (s : State) : Host.Outcome State Fault Refusal :=
  .next ({ s with eng := s.eng.setOs ch level }.respond 0#64)

/-- `SETRAW ch, v` (R127): the register takes `sext_24(v)`. -/
def execSetraw (ch : Channel) (v : BitVec 24) (s : State) : Host.Outcome State Fault Refusal :=
  .next ({ s with eng := s.eng.setRaw ch (BitVec.ofInt 24 (sext 24 v.toNat)) }.respond 0#64)

/-- The first data address of a channel (20_memory R60): PRESSURE_DATA, TEMPERATURE_DATA. -/
def dataAddr : Channel → BitVec 7
  | .pressure => 0x00#7
  | .temperature => 0x03#7

/-- The read both raw loads share (R128, R129): three bytes in one transaction; a failure leaves the
register and its valid bit as they were. -/
def loadRaw (ch : Channel) (s : State) : State :=
  match s.readData (dataAddr ch) 3 with
  | none => (s.afterRead (dataAddr ch) 3).raise .busError
  | some b =>
    let s' := s.afterRead (dataAddr ch) 3
    { s' with eng := s'.eng.setRaw ch (BitVec.ofInt 24 (assemble24 b)) }.respond 0#64

/-- `LDRAWP` (R128). -/
def execLdrawp (s : State) : Host.Outcome State Fault Refusal := .next (loadRaw .pressure s)

/-- `LDRAWT` (R129). -/
def execLdrawt (s : State) : Host.Outcome State Fault Refusal := .next (loadRaw .temperature s)

/-- `RDRAW ch` (R130). -/
def execRdraw (ch : Channel) (s : State) : Host.Outcome State Fault Refusal :=
  .next (if (s.eng.raw ch).valid then s.respond (doutInt (s.eng.raw ch).val.toInt)
    else s.raise .operandUnwritten)

end Sys2Proof.Machine
end

