-- ==== Sys2Proof/Machine/SignExtension.lean ====
section
/-! DEFINITION. The sign-extension family (40_sign_extension): `SEXT12`, `SEXT16`, `SEXT20`, `SEXT24`. -/

namespace Sys2Proof.Machine

/-- `SEXT12 v` (R101). -/
def execSext12 (v : BitVec 12) (s : State) : Host.Outcome State Fault Refusal :=
  .next (s.respond (doutInt (sext 12 v.toNat)))

/-- `SEXT16 v` (R102). -/
def execSext16 (v : BitVec 16) (s : State) : Host.Outcome State Fault Refusal :=
  .next (s.respond (doutInt (sext 16 v.toNat)))

/-- `SEXT20 v` (R103). -/
def execSext20 (v : BitVec 20) (s : State) : Host.Outcome State Fault Refusal :=
  .next (s.respond (doutInt (sext 20 v.toNat)))

/-- `SEXT24 v` (R104). -/
def execSext24 (v : BitVec 24) (s : State) : Host.Outcome State Fault Refusal :=
  .next (s.respond (doutInt (sext 24 v.toNat)))

end Sys2Proof.Machine
end

