-- ==== Sys2Proof/Machine/Dispatch.lean ====
section
/-! DEFINITION. The dispatch: one arm per constructor of Instr, in the opcode table's order. -/

namespace Sys2Proof.Machine

def exec (i : Instr) (s : State) : Host.Outcome State Fault Refusal :=
  match i with
  | .sext12 v => Sys2Proof.Machine.execSext12 v s
  | .sext16 v => Sys2Proof.Machine.execSext16 v s
  | .sext20 v => Sys2Proof.Machine.execSext20 v s
  | .sext24 v => Sys2Proof.Machine.execSext24 v s
  | .ldcal => Sys2Proof.Machine.execLdcal s
  | .rdcoef k => Sys2Proof.Machine.execRdcoef k s
  | .setos ch level => Sys2Proof.Machine.execSetos ch level s
  | .setraw ch v => Sys2Proof.Machine.execSetraw ch v s
  | .ldrawp => Sys2Proof.Machine.execLdrawp s
  | .ldrawt => Sys2Proof.Machine.execLdrawt s
  | .rdraw ch => Sys2Proof.Machine.execRdraw ch s
  | .compt => Sys2Proof.Machine.execCompt s
  | .compp => Sys2Proof.Machine.execCompp s
  | .alt => Sys2Proof.Machine.execAlt s
  | .sealvl => Sys2Proof.Machine.execSealvl s
  | .wrf r => Sys2Proof.Machine.execWrf r s
  | .rdf r => Sys2Proof.Machine.execRdf r s
  | .rdstat => Sys2Proof.Machine.execRdstat s

end Sys2Proof.Machine
end

