-- ==== Sys2Proof/Machine/HostDuty.lean ====
section
/-! DEFINITION. What the host does while the port is free: presenting a command, and the duties of
60_exceptions Part 3 on the bus it shares with the engine. They bind the host, not the engine; they
change no engine state (log 15). -/

namespace Sys2Proof.Machine

/-- A host duty ends with this result. -/
def State.logHost (s : State) (r : HostResult) : State := { s with hostLog := s.hostLog ++ [r] }

/-- The host does these actions next, before what it had to do. -/
def State.queue (s : State) (as : List HostAction) : State := { s with pending := as ++ s.pending }

/-- Present `SETOS ch, level` (60_exceptions R203, R204); its `DIN` is 0 (30_encoding R87). -/
def presentSetos (ch : Channel) (level : BitVec 3) : HostAction := .command (encode (.setos ch level)) 0#64

/-- The 3-bit value of a mode (60_exceptions R201): SRC's listing order. DEDUCED, log 19. -/
def OperatingMode.code : OperatingMode → BitVec 3
  | .idle => 0#3
  | .pressureOnly => 1#3
  | .temperatureOnly => 2#3
  | .invalid1 => 3#3
  | .invalid2 => 4#3
  | .continuousPressure => 5#3
  | .continuousTemperature => 6#3
  | .continuousBoth => 7#3

/-- "rejected before any register write" (R201): a reserved mode, or one below the continuous class
while the combined oversampling, the sum of the levels, is nonzero (log 20). -/
def modeRejected (mode : OperatingMode) (levelP levelT : BitVec 3) : Bool :=
  decide (mode = .invalid1) || decide (mode = .invalid2)
    || (decide (mode.code.toNat < OperatingMode.continuousPressure.code.toNat)
        && decide (0 < levelP.toNat + levelT.toNat))

/-- One register read by the host (R200). -/
def hostRead (addr : BitVec 7) (s : State) : State :=
  match s.readData addr 1 with
  | none => (s.afterRead addr 1).logHost .busError
  | some b => (s.afterRead addr 1).logHost (.value (b.headD 0#8))

/-- One register write by the host (R200). -/
def hostWrite (addr : BitVec 7) (v : Byte) (s : State) : State :=
  if s.writeOk addr v then (s.afterWrite addr v).logHost .ok
  else (s.afterWrite addr v).logHost .busError

/-- Read a register, write back what `f` makes of it (R201, R203); `after` is what follows success. -/
def hostModify (addr : BitVec 7) (f : Byte → Byte) (after : State → State) (s : State) : State :=
  match s.readData addr 1 with
  | none => (s.afterRead addr 1).logHost .busError
  | some b =>
    let s1 := s.afterRead addr 1
    let v := f (b.headD 0#8)
    if s1.writeOk addr v then after (s1.afterWrite addr v)
    else (s1.afterWrite addr v).logHost .busError

/-- `setMode(mode)` (R201): the mode bits of MEAS_STATUS, the other bits kept. -/
def hostSetMode (mode : OperatingMode) (s : State) : State :=
  if modeRejected mode s.hostP.level s.hostT.level then s.logHost .invalidMode
  else hostModify 0x08#7 (fun b => (b &&& 0xF8#8) ||| mode.code.setWidth 8) (·.logHost .ok) s

/-- PRESSURE_CONFIG, TEMPERATURE_CONFIG (20_memory R60). -/
def configAddr : Channel → BitVec 7
  | .pressure => 0x06#7
  | .temperature => 0x07#7

/-- The shift-enable bit of a channel in FILTER_CONFIG (20_memory R60, R203). -/
def shiftBit : Channel → Byte
  | .pressure => 0x04#8
  | .temperature => 0x08#8

/-- FILTER_CONFIG with the channel's shift-enable bit set for more than 8 samples, that is a level above
3 (R203, 42_raw_and_config R132, log 22), and cleared otherwise. -/
def withShift (ch : Channel) (level : BitVec 3) (b : Byte) : Byte :=
  if 3 < level.toNat then b ||| shiftBit ch else b &&& ~~~(shiftBit ch)

/-- The configuration byte: rate in bits 6:4, level in bits 3:0; bit 7 is not stated (log 18). -/
def configByte (bit7 : Bool) (rate level : BitVec 3) : Byte :=
  BitVec.ofBool bit7 ++ rate ++ 0#1 ++ level

/-- The host's copy of a channel's configuration. -/
def State.hostConfig (s : State) : Channel → ChannelConfig
  | .pressure => s.hostP
  | .temperature => s.hostT

/-- The host commits a channel's configuration to its memory. -/
def State.commitConfig (s : State) (ch : Channel) (c : ChannelConfig) : State :=
  match ch with
  | .pressure => { s with hostP := c }
  | .temperature => { s with hostT := c }

/-- The timing-budget check across both channels, with this one as proposed (R202, log 17). -/
def State.withinBudget (s : State) (ch : Channel) (c : ChannelConfig) : Bool :=
  match ch with
  | .pressure => Config.budgetOk c.rate c.level s.hostT.rate s.hostT.level
  | .temperature => Config.budgetOk s.hostP.rate s.hostP.level c.rate c.level

/-- `configureChannel` (R203): validate; write the configuration byte and commit; set or clear the
shift-enable bit; then present `SETOS` so that the engine's level equals the armed one (log 16). -/
def hostConfigure (ch : Channel) (rate level : BitVec 3) (s : State) : State :=
  if !s.withinBudget ch ⟨rate, level⟩ then s.logHost .invalidRateOversamplingCombination
  else
    let v := configByte (Config.configBit7 ch s.history) rate level
    if !s.writeOk (configAddr ch) v then (s.afterWrite (configAddr ch) v).logHost .busError
    else
      hostModify 0x09#7 (withShift ch level)
        (fun s' => (s'.logHost .ok).queue [presentSetos ch level])
        ((s.afterWrite (configAddr ch) v).commitConfig ch ⟨rate, level⟩)

/-- `reset()` of the sensor (R204): the reset value, the 10 ms settle, then the wait. -/
def hostSensorReset (s : State) : State :=
  if s.writeOk 0x0C#7 0x89#8 then
    ((s.afterWrite 0x0C#7 0x89#8).sleep 10).queue [.waitSensorReady]
  else (s.afterWrite 0x0C#7 0x89#8).logHost .busError

/-- One round of an unbounded readiness wait: read MEAS_STATUS; done when the mask's bits are all set,
and `after` is what follows; otherwise sleep and go on with the same action (R204, R205). -/
def hostWait (mask : Byte) (ms : Nat) (a : HostAction) (after : State → State) (s : State) : State :=
  match s.readData 0x08#7 1 with
  | none => (s.afterRead 0x08#7 1).logHost .busError
  | some b =>
    if b.headD 0#8 &&& mask = mask then after ((s.afterRead 0x08#7 1).logHost .ok)
    else ((s.afterRead 0x08#7 1).sleep ms).queue [a]

/-- After a sensor reset "the host issues `LDCAL` and `SETOS` again" (R204, 41_calibration R117, 70_reset
R227, R231): it presents them next, for both channels, with levels that the spec leaves open (log 30). -/
def reissueAfterReset (s : State) : State :=
  s.queue [.command (encode .ldcal) 0#64,
    presentSetos .pressure (Config.levelAfterReset .pressure s.history),
    presentSetos .temperature (Config.levelAfterReset .temperature s.history)]

/-- The product-id check (R206): a mismatch is fatal and the host does nothing further (log 21). -/
def hostCheckId (s : State) : State :=
  match s.readData 0x0D#7 1 with
  | none => (s.afterRead 0x0D#7 1).logHost .busError
  | some b =>
    let s' := s.afterRead 0x0D#7 1
    if b.headD 0#8 = 0x10#8 then s'.logHost .ok
    else { s' with pending := [] }.logHost .unexpectedDeviceId

/-- An address byte's 7-bit sensor address, if there is one (20_memory R50). -/
def sensorAddr (a : Byte) : Option (BitVec 7) :=
  if a.getLsbD 7 then none else some (a.setWidth 7)

/-- The host's move while the port is free (00_scope R16). With nothing to do the machine is idle and
keeps all state (60_exceptions R198, log 14). After a duty that ended in an error the host goes on with
its next action, a failed readiness wait included: the spec leaves this to the caller. DESIGN CHOICE,
log 29. -/
def hostMove (s : State) : Host.Outcome State Fault Refusal :=
  match s.pending with
  | [] => .next s
  | a :: rest =>
    let s := { s with pending := rest }
    match a with
    | .command w d => .next (s.present w d)
    | .readReg addr =>
      match sensorAddr addr with
      | none => .fault .noSuchAddress
      | some x => .next (hostRead x s)
    | .writeReg addr v =>
      match sensorAddr addr with
      | none => .fault .noSuchAddress
      | some x => .next (hostWrite x v s)
    | .setMode mode => .next (hostSetMode mode s)
    | .configureChannel ch rate level => .next (hostConfigure ch rate level s)
    | .sensorReset => .next (hostSensorReset s)
    | .waitSensorReady => .next (hostWait 0x40#8 20 .waitSensorReady reissueAfterReset s)
    | .waitMeasurement ms => .next (hostWait 0x30#8 ms (.waitMeasurement ms) id s)
    | .checkProductId => .next (hostCheckId s)

end Sys2Proof.Machine
end

