-- ==== Sys2Proof/Machine/Step.lean ====
section
/-! DEFINITION. One step of the machine: `RST` first; else the command at the port, if any; else the
host's next move. And the placing of one command where the next step takes it. -/

namespace Sys2Proof.Machine

/-- The step (00_scope R16, log 7, 8, 9). -/
def step (s : State) : Host.Outcome State Fault Refusal :=
  if s.rstAsserted then .next s.tickRst.applyRst
  else
    match s.cw with
    | some w =>
      match decode w with
      | .ok i => exec i s.tickRst
      | .error _ => .next (s.tickRst.raise .illegalCommand)
    | none => hostMove s.tickRst

/-- `s` with this command at the port, so that the next step begins it: `CW` is the word, `DIN` stays, and
an `RST` that would come before it is held off for the step (log 7, 27). -/
def State.withFetchWord (s : State) (nbits w : Nat) : State :=
  { s with
    cw := some (BitVec.ofNat 32 (w % 2 ^ nbits))
    phase := .poll
    rst := if s.rstAsserted then false :: s.rst.tail else s.rst }

end Sys2Proof.Machine
end

