-- ==== Sys2Proof/Safety.lean ====
section
/-! DEFINITION. The terms claims are stated in: what a good state is, when two states look the same to
every command, what a correctly rounded result is, and the ideal values over the reals. -/

namespace Sys2Proof.Machine

/-! ### Parameters and registers -/

/-- The parameter constraint of 00_scope R8: every `SCALE` entry is positive (below 2^24 by its type). -/
def Params.Admissible (p : Params) : Prop := ∀ level : BitVec 3, 0 < p.scaleAt level

/-- Every floating pattern the machine holds has `FLEN` bits (10_state R30, 30_encoding R80, R81). -/
def State.PatternsFit (s : State) : Prop :=
  (∀ r : FReg, s.params.fmt.low (s.eng.freg r).val = (s.eng.freg r).val)
    ∧ s.params.fmt.low s.din = s.din
    ∧ ∀ r ∈ s.responses, s.params.fmt.low r.dout = r.dout

/-- Only an `LDCAL` at the port can be past its beginning (41_calibration R112, log 8). -/
def State.PortOk (s : State) : Prop := s.phase = .poll ∨ s.cw = some (encode .ldcal)

/-! ### Errors -/

/-- The first status other than `OK` in a list of responses; `OK` when there is none. -/
def firstError (rs : List Response) : Status := rs.foldl (fun e r => e.first r.st) .ok

/-- `ERR` is the first error since reset (10_state R33). -/
def State.ErrIsFirst (s : State) : Prop := s.eng.err = firstError s.responses

/-- A run up to here succeeded: every response since reset was `OK` (70_reset R242). -/
def State.Succeeded (s : State) : Prop := ∀ r ∈ s.responses, r.st = .ok

/-- The statuses the table of 60_exceptions R181 gives each command. An operand that has no word
(`k` above 8, `r` above 4) is the illegal command it would be (log 13). -/
def allowedStatus : Instr → List Status
  | .sext12 _ => [.ok]
  | .sext16 _ => [.ok]
  | .sext20 _ => [.ok]
  | .sext24 _ => [.ok]
  | .ldcal => [.ok, .busError]
  | .rdcoef k => if k.toNat ≤ 8 then [.ok, .calNotValid] else [.illegalCommand]
  | .setos _ _ => [.ok]
  | .setraw _ _ => [.ok]
  | .ldrawp => [.ok, .busError]
  | .ldrawt => [.ok, .busError]
  | .rdraw _ => [.ok, .operandUnwritten]
  | .compt => [.ok, .calNotValid, .operandUnwritten]
  | .compp => [.ok, .calNotValid, .operandUnwritten]
  | .alt => [.ok, .operandUnwritten, .domainError]
  | .sealvl => [.ok, .operandUnwritten, .domainError]
  | .wrf r => if r.toNat ≤ 4 then [.ok] else [.illegalCommand]
  | .rdf r => if r.toNat ≤ 4 then [.ok, .operandUnwritten] else [.illegalCommand]
  | .rdstat => [.ok]

/-! ### What a valid bit hides -/

/-- Two registers that no command can tell apart (10_state R41). -/
def Reg.Agrees {w : Nat} (a b : Reg w) : Prop :=
  a.valid = b.valid ∧ (a.valid = true → a.val = b.val)

/-- Two engines that differ at most in the contents of registers whose valid bit is 0. -/
def Engine.Agrees (a b : Engine) : Prop :=
  a.calv = b.calv ∧ (a.calv = true → a.coefs = b.coefs) ∧ a.err = b.err
    ∧ (∀ ch, (a.raw ch).Agrees (b.raw ch))
    ∧ (∀ ch, (a.os ch).Agrees (b.os ch))
    ∧ (∀ r, (a.freg r).Agrees (b.freg r))

/-- Two states that agree so in the engine and are equal in everything else. -/
def State.Agrees (s t : State) : Prop := s.eng.Agrees t.eng ∧ s = { t with eng := s.eng }

/-- The same outcome, up to what a valid bit hides. -/
def sameOutcome : Host.Outcome State Fault Refusal → Host.Outcome State Fault Refusal → Prop
  | .next s, .next t => s.Agrees t
  | .fault a, .fault b => a = b
  | .refused a, .refused b => a = b
  | _, _ => False

/-- An outcome with its next state changed. -/
def mapNext (f : State → State) : Host.Outcome State Fault Refusal → Host.Outcome State Fault Refusal
  | .next s => .next (f s)
  | .fault a => .fault a
  | .refused a => .refused a

/-- Every transaction among these events reads the sensor (the read flag is set, 20_memory R53). -/
def OnlyReads (events : List BusEvent) : Prop :=
  ∀ e ∈ events, ∀ out answer, e = .transfer out answer → (out.headD 0#8).getLsbD 7 = true

/-! ### Rounding -/

/-- The least absolute value that rounds to infinity: halfway from the greatest finite datum to the
power of two above it. -/
def overflowBound (fmt : Fmt) : Rat :=
  ((unitsOf fmt (fmt.infMag - 1) + unitsOf fmt fmt.infMag : Nat) : Rat) / 2 / (2 ^ fmt.quantum : Nat)

/-- `r` is the rational `q` rounded to nearest, ties to even, in the format (00_scope R11): a finite
`r` is at least as near to `q` as any finite datum, and has an even significand where another is as
near; an infinity has the sign of a `q` beyond the overflow bound. -/
def NearestEven (fmt : Fmt) (q : Rat) (r : FloatVal) : Prop :=
  match r with
  | .nan => False
  | .inf neg => overflowBound fmt ≤ |q| ∧ (neg = true ↔ q < 0)
  | .fin neg mag =>
    mag < fmt.infMag ∧ |q| < overflowBound fmt ∧
    ∃ v, FloatVal.toRat? fmt (.fin neg mag) = some v ∧
      ∀ z w, FloatVal.wf fmt z = true → FloatVal.toRat? fmt z = some w →
        |v - q| ≤ |w - q| ∧ (|v - q| = |w - q| → w ≠ v → mag % 2 = 0)

/-! ### Ideal values of the altitude formulas (00_scope R13) -/

/-- The ideal altitude (44_altitude R157). -/
noncomputable def idealAlt (p s : ℝ) : ℝ := 44330 * (1 - (p / 100 / s) ^ (0.1903 : ℝ))

/-- The ideal sea-level pressure (44_altitude R159). -/
noncomputable def idealSlp (p h : ℝ) : ℝ := p / 100 * (1 - h / 44330) ^ (-5.255 : ℝ)

end Sys2Proof.Machine
end

