-- ==== Sys2Proof/Certificates/Slice0/Obligations.lean ====
section
/-! DEFINITION. The statements for the provers, each one Prop. They are listed in OBLIGATIONS.json; the
docstrings name the rules of spec/ each one formalises. -/

open Sys2Proof Sys2Proof.Machine

/-! ## Encoding -/

/-- 30_encoding R82, R83: a decoder given the word of a well-formed command answers that command, with
every operand at every value the encoding admits. -/
def Obligations.DecodeOfEncode : Prop :=
  ∀ i : Instr, i.WellFormed → decode (encode i) = .ok i

/-- 30_encoding R83, R84: a word has at most one meaning: what the decoder answers is well-formed and
its encoding is that very word, so no bit is dropped and none is ignored. -/
def Obligations.EncodeOfDecode : Prop :=
  ∀ (w : Word) (i : Instr), decode w = .ok i → i.WellFormed ∧ encode i = w

/-- 30_encoding R83: the decoder answers a command with this mnemonic exactly for the words that the
row's match, mask and range of `sel` spell; and no word spells two rows. -/
def Obligations.DecoderFollowsOpcodeMap : Prop :=
  (∀ (w : Word) (row : OpcodeRow), row ∈ opcodeRows →
    (row.spells w = true ↔ ∃ i, decode w = .ok i ∧ i.mnemonic = row.mnemonic))
  ∧ ∀ (w : Word) (a b : OpcodeRow), a ∈ opcodeRows → b ∈ opcodeRows →
      a.spells w = true → b.spells w = true → a = b

/-- 30_encoding R85, 60_exceptions R184: the words R85 lists are exactly the ones the decoder rejects;
executing one answers status 2 with `DOUT` 0 and writes nothing but `ERR`. -/
def Obligations.IllegalWordsRaiseIllegalCommand : Prop :=
  (∀ w : Word,
    (let op := w.toNat / 2 ^ 28
     let sel := w.toNat / 2 ^ 24 % 16
     let imm := w.toNat % 2 ^ 24
     op = 0x0 ∨ op = 0xF
      ∨ (op = 0x1 ∧ 3 < sel) ∨ (op = 0x3 ∧ 8 < sel)
      ∨ ((op = 0x4 ∨ op = 0x5 ∨ op = 0x6 ∨ op = 0x7) ∧ 1 < sel)
      ∨ ((op = 0xC ∨ op = 0xD) ∧ 4 < sel)
      ∨ ((op = 0x2 ∨ op = 0x8 ∨ op = 0x9 ∨ op = 0xA ∨ op = 0xB ∨ op = 0xE) ∧ sel ≠ 0)
      ∨ (op = 0x1 ∧ sel = 0 ∧ 2 ^ 12 ≤ imm) ∨ (op = 0x1 ∧ sel = 1 ∧ 2 ^ 16 ≤ imm)
      ∨ (op = 0x1 ∧ sel = 2 ∧ 2 ^ 20 ≤ imm) ∨ (op = 0x4 ∧ 2 ^ 3 ≤ imm)
      ∨ ((op = 0x2 ∨ op = 0x3 ∨ op = 0x6 ∨ op = 0x7 ∨ op = 0x8 ∨ op = 0x9 ∨ op = 0xA ∨ op = 0xB
          ∨ op = 0xC ∨ op = 0xD ∨ op = 0xE) ∧ imm ≠ 0))
      ↔ ∃ e, decode w = .error e)
  ∧ ∀ (s : State) (w : Word) (e : DecodeError),
      s.rstAsserted = false → s.cw = some w → decode w = .error e →
      step s = .next { s with
        rst := s.rst.tail
        eng := { s.eng with err := s.eng.err.first .illegalCommand }
        cw := none
        responses := s.responses ++ [⟨.illegalCommand, 0#64⟩] }

/-- 30_encoding R87 (the words of its examples): a sanity statement. -/
def Obligations.SampleWordsDecode : Prop :=
  decode 0x10000800#32 = .ok (.sext12 0x800#12) ∧ decode 0x13FFFFFF#32 = .ok (.sext24 0xFFFFFF#24)
  ∧ decode 0x20000000#32 = .ok .ldcal ∧ decode 0x33000000#32 = .ok (.rdcoef 3#4)
  ∧ decode 0x40000003#32 = .ok (.setos .pressure 3#3)
  ∧ decode 0x51020000#32 = .ok (.setraw .temperature 131072#24)
  ∧ decode 0x61000000#32 = .ok .ldrawt ∧ decode 0x80000000#32 = .ok .compt
  ∧ decode 0xC3000000#32 = .ok (.wrf 3#4) ∧ decode 0xE0000000#32 = .ok .rdstat

/-! ## The step -/

/-- 00_scope R16, log 7: when `RST` is not asserted and the word at the port decodes, the step is `exec`
of the command on this state with one sample of `RST` gone by. -/
def Obligations.StepRunsDecodedCommand : Prop :=
  ∀ (s : State) (w : Word) (i : Instr),
    s.rstAsserted = false → s.cw = some w → decode w = .ok i →
    step s = exec i { s with rst := s.rst.tail }

/-- 00_scope R16, 70_reset R241, R242: every command answers a next state: it completes in its step with
exactly one response appended and the port free; `LDCAL` alone may instead still be executing, with no
response and no register changed. And (log 8) every step keeps it so that only an `LDCAL` at the port
is past its beginning. -/
def Obligations.OneResponseOrLdcalWaits : Prop :=
  (∀ (i : Instr) (s : State), ∃ t, exec i s = .next t ∧
    ((∃ r, t.responses = s.responses ++ [r] ∧ t.cw = none)
      ∨ (i = .ldcal ∧ t.responses = s.responses ∧ t.cw = some (encode .ldcal) ∧ t.eng = s.eng)))
  ∧ ∀ s t : State, s.PortOk → step s = .next t → t.PortOk

/-- The only stop of the machine is a host access outside the sensor space (20_memory R50, log 24): no
command, no reset and no illegal word stops it, and nothing is refused. -/
def Obligations.OnlyHostAddressStops : Prop :=
  ∀ s : State, (∃ t, step s = .next t) ∨
    (step s = .fault .noSuchAddress ∧ s.rstAsserted = false ∧ s.cw = none ∧
      ∃ a rest, 128 ≤ a.toNat ∧ (s.pending = .readReg a :: rest ∨ ∃ v, s.pending = .writeReg a v :: rest))

/-- 30_encoding R80: `DIN` is used only by `WRF`; any other command does the same whatever stands there. -/
def Obligations.DinIgnoredExceptByWrf : Prop :=
  ∀ (i : Instr) (s : State) (d : Pattern), (∀ r, i ≠ .wrf r) →
    exec i { s with din := d } = mapNext (fun t => { t with din := d }) (exec i s)

/-- 00_scope R8: no step changes the parameters, and (log 26) none changes the static image. -/
def Obligations.ParametersNeverChange : Prop :=
  ∀ s t : State, step s = .next t → t.params = s.params ∧ t.image = s.image

/-! ## Reset -/

/-- 10_state R40: the reset state has every value the table gives, in either format, and `RDSTAT` would
show 0x00000100. Of the registers without a value nothing is said. -/
def Obligations.ResetStateAsTabled : Prop :=
  ∀ p : Params,
    let e := (State.resetWith p).eng
    e.calv = false ∧ e.rawP.valid = false ∧ e.rawT.valid = false ∧ e.osP.valid = false
    ∧ e.osT.valid = false ∧ e.fT.valid = false ∧ e.fP.valid = false ∧ e.fA.valid = false
    ∧ e.fH.valid = false ∧ e.fS.valid = true ∧ e.err = .ok
    ∧ (p.fmt = .binary32 → e.fS.val = 0x447D5000#64)
    ∧ (p.fmt = .binary64 → e.fS.val = 0x408FAA0000000000#64)
    ∧ statusWord e = 0x00000100#32

/-- 70_reset R220 to R222: `RST` puts the engine at its reset values whatever it was doing and however far
an `LDCAL` had come, abandons the command at the port with no response (the responses counted are those
since the reset, log 10), does no bus transaction (where one of the three bus commands is abandoned the
history keeps what it did, and shows that the transaction or the sleep it had come to was cut, log 9),
and leaves the sensor, the host and the data word alone. -/
def Obligations.RstResetsFromAnyState : Prop :=
  ∀ s : State, s.rstAsserted = true → ∃ t, step s = .next t ∧
    t.eng = Engine.reset s.params.fmt ∧ t.cw = none ∧ t.phase = .poll ∧ t.responses = []
    ∧ t.rst = s.rst.tail ∧ t.params = s.params ∧ t.din = s.din
    ∧ t.script = s.script ∧ t.image = s.image
    ∧ t.pending = s.pending ∧ t.hostP = s.hostP ∧ t.hostT = s.hostT ∧ t.hostLog = s.hostLog
    ∧ (s.cw = some 0x20000000#32 → t.history = s.history ++ [.cut (match s.phase with
        | .poll => some [0x88#8, 0#8]
        | .sleep => none
        | .block => some (0x90#8 :: List.replicate 18 0#8))])
    ∧ (s.cw = some 0x60000000#32 → t.history = s.history ++ [.cut (some [0x80#8, 0#8, 0#8, 0#8])])
    ∧ (s.cw = some 0x61000000#32 → t.history = s.history ++ [.cut (some [0x83#8, 0#8, 0#8, 0#8])])
    ∧ (s.cw ≠ some 0x20000000#32 → s.cw ≠ some 0x60000000#32 → s.cw ≠ some 0x61000000#32 →
        t.history = s.history)

/-- The parameters of the reset state are admissible (00_scope R8, log 2), and its errors, patterns, port
and image are as the invariants say. -/
def Obligations.GoodStateAtReset : Prop :=
  State.reset.params.Admissible ∧ State.reset.ErrIsFirst ∧ State.reset.PatternsFit
    ∧ State.reset.PortOk
    ∧ Image.wf State.reset.image = true

/-! ## Sign extension -/

/-- 40_sign_extension R100: the value the threshold gives, its range, and that it is the two's-complement
reading of the `N`-bit pattern. -/
def Obligations.SextIsTwosComplement : Prop :=
  ∀ N ∈ [12, 16, 20, 24], ∀ v : Nat, v < 2 ^ N →
    sext N v = (if v > 2 ^ (N - 1) - 1 then (v : Int) - 2 ^ N else v)
    ∧ -(2 ^ (N - 1) : Int) ≤ sext N v ∧ sext N v ≤ 2 ^ (N - 1) - 1
    ∧ sext N v = (v : Int) - 2 ^ N * (v.testBit (N - 1)).toNat
    ∧ sext N v = (BitVec.ofNat N v).toInt

/-- 40_sign_extension R105: injective, onto the signed range, inverse `i mod 2^N`; the result always fits
the 32-bit response. -/
def Obligations.SextArithmeticLaws : Prop :=
  ∀ N ∈ [12, 16, 20, 24],
    (∀ v w : Nat, v < 2 ^ N → w < 2 ^ N → sext N v = sext N w → v = w)
    ∧ (∀ i : Int, -(2 ^ (N - 1) : Int) ≤ i → i ≤ 2 ^ (N - 1) - 1 →
        (i % 2 ^ N).toNat < 2 ^ N ∧ sext N (i % 2 ^ N).toNat = i)
    ∧ (∀ v : Nat, v < 2 ^ N → sext N v % 2 ^ N = v ∧ (tc32 (sext N v)).toInt = sext N v)

/-- 40_sign_extension R101 to R104: the four commands respond `OK` with the operand sign-extended to 32
bits, 0 above, and touch nothing; each one's word is its `op`, `sel` and a field whose upper bits are 0,
and with any other upper bit set the word is illegal. -/
def Obligations.SextCommandsRespond : Prop :=
  ∀ s : State,
    (∀ v : BitVec 12, exec (.sext12 v) s = .next { s with
      cw := none, responses := s.responses ++ [⟨.ok, (v.signExtend 32).setWidth 64⟩] })
    ∧ (∀ v : BitVec 16, exec (.sext16 v) s = .next { s with
      cw := none, responses := s.responses ++ [⟨.ok, (v.signExtend 32).setWidth 64⟩] })
    ∧ (∀ v : BitVec 20, exec (.sext20 v) s = .next { s with
      cw := none, responses := s.responses ++ [⟨.ok, (v.signExtend 32).setWidth 64⟩] })
    ∧ (∀ v : BitVec 24, exec (.sext24 v) s = .next { s with
      cw := none, responses := s.responses ++ [⟨.ok, (v.signExtend 32).setWidth 64⟩] })
    ∧ (∀ imm : BitVec 24,
      decode (0x10#8 ++ imm) = (if imm.toNat < 2 ^ 12 then .ok (.sext12 (imm.setWidth 12)) else .error .nonzeroImm)
      ∧ decode (0x11#8 ++ imm) = (if imm.toNat < 2 ^ 16 then .ok (.sext16 (imm.setWidth 16)) else .error .nonzeroImm)
      ∧ decode (0x12#8 ++ imm) = (if imm.toNat < 2 ^ 20 then .ok (.sext20 (imm.setWidth 20)) else .error .nonzeroImm)
      ∧ decode (0x13#8 ++ imm) = .ok (.sext24 imm))

/-! ## The bus -/

/-- 20_memory R53, R54, R55: one read is one transaction of `n + 1` bytes, the address with the read flag
then zeros; it returns the `n` bytes after the first incoming one, or nothing on a failure; the oracle
sees it. Every transaction is framed by chip select and both settle holds. -/
def Obligations.MemReadIsOneFramedTransaction : Prop :=
  (∀ (s : State) (addr : BitVec 7) (n : Nat),
    let out : List Byte := (0x80#8 ||| addr.setWidth 8) :: List.replicate n 0x00#8
    s.readData addr n = (s.answer out).map List.tail
    ∧ s.afterRead addr n
      = { s with script := s.script.tail, history := s.history ++ [.transfer out (s.answer out)] }
    ∧ (∀ f, s.answer out = some f → f.length = n + 1)
    ∧ (∀ b, s.readData addr n = some b → b.length = n))
  ∧ (∀ (s : State) (addr : BitVec 7) (v : Byte),
    let out : List Byte := [addr.setWidth 8, v]
    s.writeOk addr v = (s.answer out).isSome
    ∧ s.afterWrite addr v
      = { s with script := s.script.tail, history := s.history ++ [.transfer out (s.answer out)] })
  ∧ ∀ out answer, busSignals (.transfer out answer)
      = [.assertChipSelect, .hold Config.tCs, .duplex out answer, .hold Config.tCs, .deassertChipSelect]

/-- 20_memory R57: a static image whose addresses cover a read answers it with its own bytes, every time,
when no scripted answer stands before it. -/
def Obligations.StaticImageAnswersReads : Prop :=
  ∀ (s : State) (addr : BitVec 7) (n : Nat),
    s.script = [] → addr.toNat + n ≤ 128 → Image.covers s.image addr.toNat n = true →
    ∃ b, s.readData addr n = some b ∧ b.length = n
      ∧ (∀ i, i < n → b[i]? = Image.read s.image (addr.toNat + i))
      ∧ (s.afterRead addr n).readData addr n = some b

/-- 20_memory R51: only `LDCAL`, `LDRAWP` and `LDRAWT` reach the sensor, and all they do there is read
(and sleep); no other command changes what the sensor has seen or its answers. -/
def Obligations.OnlyLoadsReachTheSensor : Prop :=
  ∀ (i : Instr) (s t : State), exec i s = .next t →
    (usesBus i = false → t.history = s.history ∧ t.script = s.script)
    ∧ ∃ events, t.history = s.history ++ events ∧ OnlyReads events

/-! ## Calibration -/

/-- 41_calibration R111: the layout of the nine coefficients, as signed values. -/
def Obligations.UnpackCalFollowsLayout : Prop :=
  ∀ b : List Byte, b.length = 18 →
    let B := fun i => (b.getD i 0#8).toNat
    let c := unpackCal b
    c.c0.toInt = sext 12 (B 0 * 16 + B 1 / 16)
    ∧ c.c1.toInt = sext 12 (B 1 % 16 * 256 + B 2)
    ∧ c.c00.toInt = sext 20 (B 3 * 4096 + B 4 * 16 + B 5 / 16)
    ∧ c.c10.toInt = sext 20 (B 5 % 16 * 65536 + B 6 * 256 + B 7)
    ∧ c.c01.toInt = sext 16 (B 8 * 256 + B 9)
    ∧ c.c11.toInt = sext 16 (B 10 * 256 + B 11)
    ∧ c.c20.toInt = sext 16 (B 12 * 256 + B 13)
    ∧ c.c21.toInt = sext 16 (B 14 * 256 + B 15)
    ∧ c.c30.toInt = sext 16 (B 16 * 256 + B 17)

/-- 41_calibration R115: unpacking and packing are inverse to each other, so a block built from nine
chosen coefficients gives back exactly those, and every block is a legal set. -/
def Obligations.UnpackPackInverse : Prop :=
  (∀ b : List Byte, b.length = 18 → packCal (unpackCal b) = b)
  ∧ ∀ c : Coefs, (packCal c).length = 18 ∧ unpackCal (packCal c) = c

/-- 41_calibration R113: `LDCAL` whose poll shows coef-ready goes on to the block read, and when that
succeeds it writes all nine coefficients and `CALV`, answers `OK`, and changes nothing else; from its
beginning, with `RST` quiet, these are two steps, two transactions and no sleep (log 8). -/
def Obligations.LdcalLoadsAllCoefficients : Prop :=
  (∀ (s : State) (b : List Byte), s.phase = .block → s.readData 0x10#7 18 = some b →
    exec .ldcal s = .next { s.afterRead 0x10#7 18 with
      eng := { s.eng with calv := true, coefs := unpackCal b }
      cw := none
      phase := .poll
      responses := s.responses ++ [⟨.ok, 0#64⟩] })
  ∧ ∀ (s : State) (p b : List Byte),
    s.rst = [] → s.cw = some 0x20000000#32 → s.phase = .poll →
    s.readData 0x08#7 1 = some p → (p.headD 0#8).getLsbD 7 = true →
    (s.afterRead 0x08#7 1).readData 0x10#7 18 = some b →
    Host.Core.run Sys2Proof.core 2 s = .next { (s.afterRead 0x08#7 1).afterRead 0x10#7 18 with
      eng := { s.eng with calv := true, coefs := unpackCal b }
      cw := none
      responses := s.responses ++ [⟨.ok, 0#64⟩] }

/-- 41_calibration R113, 60_exceptions R185: when the poll fails, or the block read after coef-ready
fails, `LDCAL` answers `BusError` at once, and `C`, `CALV` and every other register are as before. -/
def Obligations.LdcalBusErrorKeepsCoefficients : Prop :=
  (∀ s : State, s.phase = .poll → s.readData 0x08#7 1 = none →
    exec .ldcal s = .next { s.afterRead 0x08#7 1 with
      eng := { s.eng with err := s.eng.err.first .busError }
      cw := none
      responses := s.responses ++ [⟨.busError, 0#64⟩] })
  ∧ ∀ s : State, s.phase = .block → s.readData 0x10#7 18 = none →
    exec .ldcal s = .next { s.afterRead 0x10#7 18 with
      eng := { s.eng with err := s.eng.err.first .busError }
      cw := none
      phase := .poll
      responses := s.responses ++ [⟨.busError, 0#64⟩] }

/-- 41_calibration R112: after a poll with coef-ready the block read is next; after one without, a sleep
of 20 ms, and after the sleep a poll again. The command is still executing, no register changes and
nothing is answered (one transaction or sleep a step: log 8). -/
def Obligations.LdcalPollsAgainUntilReady : Prop :=
  (∀ (s : State) (p : List Byte), s.phase = .poll → s.readData 0x08#7 1 = some p →
    exec .ldcal s = .next { s.afterRead 0x08#7 1 with
      cw := some 0x20000000#32
      phase := if (p.headD 0#8).getLsbD 7 then .block else .sleep })
  ∧ ∀ s : State, s.phase = .sleep →
    exec .ldcal s = .next { s with
      cw := some 0x20000000#32
      phase := .poll
      history := s.history ++ [.sleep 20] }

/-- 41_calibration R113, 70_reset R241: with `m` polls not ready, whatever their frames are beside bit 7,
then one ready and the block, `LDCAL` completes having made `m + 2` transactions and `m` sleeps, exactly
those and in that order; one of them a step (log 4, 8). -/
def Obligations.LdcalCompletesAfterPolls : Prop :=
  ∀ (s : State) (polls : List (Byte × Byte)) (y r z : Byte) (blk : List Byte) (rest : List Answer),
    s.rst = [] → s.cw = some 0x20000000#32 → s.phase = .poll →
    (∀ p ∈ polls, p.2.getLsbD 7 = false) → r.getLsbD 7 = true → blk.length = 18 →
    s.script = polls.map (fun p => .frame [p.1, p.2]) ++ .frame [y, r] :: .frame (z :: blk) :: rest →
    Host.Core.run Sys2Proof.core (2 * polls.length + 2) s = .next { s with
      eng := { s.eng with calv := true, coefs := unpackCal blk }
      cw := none
      responses := s.responses ++ [⟨.ok, 0#64⟩]
      script := rest
      history := s.history
        ++ (polls.map fun p => [BusEvent.transfer [0x88#8, 0#8] (some [p.1, p.2]), .sleep 20]).flatten
        ++ [.transfer [0x88#8, 0#8] (some [y, r]),
            .transfer (0x90#8 :: List.replicate 18 0#8) (some (z :: blk))] }

/-- 60_exceptions R186: with a static image (20_memory R57) whose status byte never shows coef-ready, and
no scripted answer before it, `LDCAL` has no final state: after any number of steps it is still
executing, at a poll or a sleep, no register has changed and nothing has been answered; each step is
one more poll or one more sleep (log 8). -/
def Obligations.LdcalHangsWhenNeverReady : Prop :=
  ∀ (s : State) (b : Byte),
    s.rst = [] → s.cw = some 0x20000000#32 → s.phase = .poll → s.script = [] →
    Image.read s.image 0x08 = some b → b.getLsbD 7 = false →
    ∀ n : Nat, ∃ t : State, Host.Core.run Sys2Proof.core n s = .next t ∧
      t = { s with history := t.history, phase := t.phase } ∧ t.phase ≠ .block
      ∧ t.history.length = s.history.length + n

/-- 41_calibration R114: `RDCOEF k` answers the coefficient, sign-extended, when `CALV` is 1;
`CalNotValid` when it is 0; and `k` above 8 is the illegal command. It writes no register but `ERR`. -/
def Obligations.RdcoefAnswersCoefficient : Prop :=
  (∀ (s : State) (k : Nat) (x : Int), s.eng.calv = true →
    [s.eng.coefs.c0.toInt, s.eng.coefs.c1.toInt, s.eng.coefs.c00.toInt, s.eng.coefs.c10.toInt,
     s.eng.coefs.c01.toInt, s.eng.coefs.c11.toInt, s.eng.coefs.c20.toInt, s.eng.coefs.c21.toInt,
     s.eng.coefs.c30.toInt][k]? = some x →
    exec (.rdcoef (BitVec.ofNat 4 k)) s = .next { s with
      cw := none, responses := s.responses ++ [⟨.ok, (BitVec.ofInt 32 x).setWidth 64⟩] })
  ∧ (∀ (s : State) (k : BitVec 4), s.eng.calv = false → k.toNat ≤ 8 →
    exec (.rdcoef k) s = .next { s with
      eng := { s.eng with err := s.eng.err.first .calNotValid }
      cw := none
      responses := s.responses ++ [⟨.calNotValid, 0#64⟩] })
  ∧ ∀ (s : State) (k : BitVec 4), 8 < k.toNat →
    exec (.rdcoef k) s = .next { s with
      eng := { s.eng with err := s.eng.err.first .illegalCommand }
      cw := none
      responses := s.responses ++ [⟨.illegalCommand, 0#64⟩] }

/-- 10_state R24: over every step of the machine, `C` and `CALV` change only where `LDCAL` is executing
or `RST` is asserted; and where `LDCAL` changes them it has answered `OK` and `CALV` is 1. -/
def Obligations.CoefficientsWrittenOnlyByLdcal : Prop :=
  ∀ s t : State, step s = .next t →
    (t.eng.coefs = s.eng.coefs ∧ t.eng.calv = s.eng.calv) ∨ s.rstAsserted = true
    ∨ (s.cw = some 0x20000000#32 ∧ t.eng.calv = true ∧ t.responses = s.responses ++ [⟨.ok, 0#64⟩])

/-! ## Raw samples and levels -/

/-- 42_raw_and_config R126: `SETOS` writes the level and its valid bit, answers `OK`, and changes nothing
else, for either channel and every level. -/
def Obligations.SetosWritesLevel : Prop :=
  ∀ (s : State) (level : BitVec 3),
    exec (.setos .pressure level) s = .next { s with
      eng := { s.eng with osP := ⟨true, level⟩ }
      cw := none, responses := s.responses ++ [⟨.ok, 0#64⟩] }
    ∧ exec (.setos .temperature level) s = .next { s with
      eng := { s.eng with osT := ⟨true, level⟩ }
      cw := none, responses := s.responses ++ [⟨.ok, 0#64⟩] }

/-- 42_raw_and_config R127: `SETRAW` writes the register whose signed value is `sext_24(v)`, that is the
pattern `v` itself, and its valid bit; `RDRAW` of that channel after it answers `v` sign-extended. -/
def Obligations.SetrawStoresSignedSample : Prop :=
  ∀ (s : State) (v : BitVec 24),
    v.toInt = sext 24 v.toNat
    ∧ exec (.setraw .pressure v) s = .next { s with
      eng := { s.eng with rawP := ⟨true, v⟩ }
      cw := none, responses := s.responses ++ [⟨.ok, 0#64⟩] }
    ∧ exec (.setraw .temperature v) s = .next { s with
      eng := { s.eng with rawT := ⟨true, v⟩ }
      cw := none, responses := s.responses ++ [⟨.ok, 0#64⟩] }
    ∧ ∀ ch : Channel, ∃ t u : State, exec (.setraw ch v) s = .next t ∧ exec (.rdraw ch) t = .next u ∧
      u.eng = t.eng
      ∧ u.responses = s.responses ++ [⟨.ok, 0#64⟩, ⟨.ok, (v.signExtend 32).setWidth 64⟩]

/-- 42_raw_and_config R125, R128, R129: `LDRAWP` and `LDRAWT` read three bytes at 0x00 and 0x03 in one
transaction and write `sext_24` of them, most significant byte first, with the valid bit; on a failed
transfer they answer `BusError` and the register and its valid bit are unchanged. -/
def Obligations.LdrawLoadsBigEndianSample : Prop :=
  (∀ (s : State) (b0 b1 b2 : Byte), s.readData 0x00#7 3 = some [b0, b1, b2] →
    (b0 ++ b1 ++ b2 : BitVec 24).toInt = sext 24 (b0.toNat * 65536 + b1.toNat * 256 + b2.toNat)
    ∧ exec .ldrawp s = .next { s.afterRead 0x00#7 3 with
      eng := { s.eng with rawP := ⟨true, b0 ++ b1 ++ b2⟩ }
      cw := none, responses := s.responses ++ [⟨.ok, 0#64⟩] })
  ∧ (∀ (s : State) (b0 b1 b2 : Byte), s.readData 0x03#7 3 = some [b0, b1, b2] →
    exec .ldrawt s = .next { s.afterRead 0x03#7 3 with
      eng := { s.eng with rawT := ⟨true, b0 ++ b1 ++ b2⟩ }
      cw := none, responses := s.responses ++ [⟨.ok, 0#64⟩] })
  ∧ (∀ s : State, s.readData 0x00#7 3 = none →
    exec .ldrawp s = .next { s.afterRead 0x00#7 3 with
      eng := { s.eng with err := s.eng.err.first .busError }
      cw := none, responses := s.responses ++ [⟨.busError, 0#64⟩] })
  ∧ ∀ s : State, s.readData 0x03#7 3 = none →
    exec .ldrawt s = .next { s.afterRead 0x03#7 3 with
      eng := { s.eng with err := s.eng.err.first .busError }
      cw := none, responses := s.responses ++ [⟨.busError, 0#64⟩] }

/-- 42_raw_and_config R130: `RDRAW` answers the signed sample in 32 bits when its valid bit is 1, else
`OperandUnwritten`; it writes no register but `ERR`. -/
def Obligations.RdrawAnswersSample : Prop :=
  ∀ (s : State) (ch : Channel),
    let r := match ch with | .pressure => s.eng.rawP | .temperature => s.eng.rawT
    (r.valid = true → exec (.rdraw ch) s = .next { s with
      cw := none, responses := s.responses ++ [⟨.ok, (r.val.signExtend 32).setWidth 64⟩] })
    ∧ (r.valid = false → exec (.rdraw ch) s = .next { s with
      eng := { s.eng with err := s.eng.err.first .operandUnwritten }
      cw := none, responses := s.responses ++ [⟨.operandUnwritten, 0#64⟩] })

/-! ## Floating arithmetic and compensation -/

/-- 00_scope R11: the four operations on finite data, the conversion of an integer and the conversion of a
literal are each the exact result rounded once, to nearest, ties to even, in either format. -/
def Obligations.FloatOpsRoundToNearestEven : Prop :=
  ∀ fmt : Fmt,
    (∀ (x y : FloatVal) (a b : Rat), x.wf fmt = true → y.wf fmt = true →
      x.toRat? fmt = some a → y.toRat? fmt = some b →
      NearestEven fmt (a + b) (fadd fmt x y) ∧ NearestEven fmt (a - b) (fsub fmt x y)
      ∧ NearestEven fmt (a * b) (fmul fmt x y)
      ∧ (b ≠ 0 → NearestEven fmt (a / b) (fdiv fmt x y)))
    ∧ (∀ i : Int, NearestEven fmt i (ofInt fmt i))
    ∧ ∀ num den : Nat, 0 < den →
      NearestEven fmt ((num : Rat) / den) (fconst fmt false num den)
      ∧ NearestEven fmt (-((num : Rat) / den)) (fconst fmt true num den)

/-- 43_compensation R141, R142, R140: `COMPT` with its operands there writes to `T` the value of R142's
operations in their order, sets its valid bit and answers `OK`; without calibration it answers
`CalNotValid`, and else without a raw value or level `OperandUnwritten`, writing nothing but `ERR`. -/
def Obligations.ComptWritesTemperature : Prop :=
  (∀ s : State, s.eng.calv = true → s.eng.rawT.valid = true → s.eng.osT.valid = true →
    exec .compt s = .next { s with
      eng := { s.eng with fT := ⟨true, FloatVal.toBits s.params.fmt
        (fadd s.params.fmt
          (fmul s.params.fmt
            (fdiv s.params.fmt (ofInt s.params.fmt s.eng.rawT.val.toInt)
              (ofInt s.params.fmt (s.params.scaleAt s.eng.osT.val)))
            (ofInt s.params.fmt s.eng.coefs.c1.toInt))
          (fdiv s.params.fmt (ofInt s.params.fmt s.eng.coefs.c0.toInt) (fconst s.params.fmt false 2 1)))⟩ }
      cw := none, responses := s.responses ++ [⟨.ok, 0#64⟩] })
  ∧ (∀ s : State, s.eng.calv = false →
    exec .compt s = .next { s with
      eng := { s.eng with err := s.eng.err.first .calNotValid }
      cw := none, responses := s.responses ++ [⟨.calNotValid, 0#64⟩] })
  ∧ ∀ s : State, s.eng.calv = true → (s.eng.rawT.valid = false ∨ s.eng.osT.valid = false) →
    exec .compt s = .next { s with
      eng := { s.eng with err := s.eng.err.first .operandUnwritten }
      cw := none, responses := s.responses ++ [⟨.operandUnwritten, 0#64⟩] }

/-- 43_compensation R143, R144, R140: `COMPP`, as `COMPT`, with R144's operations and grouping. -/
def Obligations.ComppWritesPressure : Prop :=
  (∀ s : State, s.eng.calv = true → s.eng.rawP.valid = true → s.eng.rawT.valid = true →
    s.eng.osP.valid = true → s.eng.osT.valid = true →
    let f := s.params.fmt
    let c := s.eng.coefs
    let st := fdiv f (ofInt f s.eng.rawT.val.toInt) (ofInt f (s.params.scaleAt s.eng.osT.val))
    let sp := fdiv f (ofInt f s.eng.rawP.val.toInt) (ofInt f (s.params.scaleAt s.eng.osP.val))
    let a := fmul f sp (fadd f (ofInt f c.c10.toInt)
      (fmul f sp (fadd f (ofInt f c.c20.toInt) (fmul f sp (ofInt f c.c30.toInt)))))
    let b := fmul f st (ofInt f c.c01.toInt)
    let cc := fmul f (fmul f sp st) (fadd f (ofInt f c.c11.toInt) (fmul f sp (ofInt f c.c21.toInt)))
    exec .compp s = .next { s with
      eng := { s.eng with fP := ⟨true, FloatVal.toBits f
        (fadd f (fadd f (fadd f (ofInt f c.c00.toInt) a) b) cc)⟩ }
      cw := none, responses := s.responses ++ [⟨.ok, 0#64⟩] })
  ∧ (∀ s : State, s.eng.calv = false →
    exec .compp s = .next { s with
      eng := { s.eng with err := s.eng.err.first .calNotValid }
      cw := none, responses := s.responses ++ [⟨.calNotValid, 0#64⟩] })
  ∧ ∀ s : State, s.eng.calv = true →
    (s.eng.rawP.valid = false ∨ s.eng.rawT.valid = false ∨ s.eng.osP.valid = false
      ∨ s.eng.osT.valid = false) →
    exec .compp s = .next { s with
      eng := { s.eng with err := s.eng.err.first .operandUnwritten }
      cw := none, responses := s.responses ++ [⟨.operandUnwritten, 0#64⟩] }

/-- 43_compensation R145: neither function can produce a NaN or an infinity, for any raw values, any
admissible scale factors and any coefficients, in either format. -/
def Obligations.CompensationAlwaysFinite : Prop :=
  ∀ (fmt : Fmt) (rawP rawT : BitVec 24) (KP KT : Nat) (c : Coefs),
    0 < KP → KP < 2 ^ 24 → 0 < KT → KT < 2 ^ 24 →
    (compTemp fmt rawT.toInt KT c.c0.toInt c.c1.toInt).finite = true
    ∧ (compPres fmt rawP.toInt rawT.toInt KP KT c).finite = true

/-- 43_compensation R141 (corner cases): a raw value of 0, or `c1` of 0, gives `c0 / 2` exactly; a zero
result is +0. -/
def Obligations.ComptCornersGiveHalfC0 : Prop :=
  ∀ (fmt : Fmt) (raw : BitVec 24) (K : Nat) (c0 c1 : BitVec 12),
    0 < K → K < 2 ^ 24 → (raw = 0#24 ∨ c1 = 0#12) →
    FloatVal.toRat? fmt (compTemp fmt raw.toInt K c0.toInt c1.toInt) = some ((c0.toInt : Rat) / 2)
    ∧ (c0 = 0#12 → compTemp fmt raw.toInt K c0.toInt c1.toInt = .fin false 0)

/-- 43_compensation R146: when `raw/K` is exactly representable (a whole number `n` over a power of two)
and the product `n * c1` and the sum `2 * n * c1 + c0 * 2^k` stay within the format's precision, every
step of the temperature is exact, and the result is the ideal value. -/
def Obligations.ComptExactWhenQuotientRepresentable : Prop :=
  ∀ (fmt : Fmt) (raw : BitVec 24) (n : Int) (q k : Nat) (c0 c1 : BitVec 12),
    0 < q → q * 2 ^ k < 2 ^ 24 → raw.toInt = n * q →
    (n * c1.toInt).natAbs ≤ 2 ^ fmt.prec →
    (2 * n * c1.toInt + c0.toInt * 2 ^ k).natAbs ≤ 2 ^ fmt.prec →
    let t1 := fdiv fmt (ofInt fmt raw.toInt) (ofInt fmt (q * 2 ^ k : Nat))
    let t2 := fmul fmt t1 (ofInt fmt c1.toInt)
    let t3 := fdiv fmt (ofInt fmt c0.toInt) (fconst fmt false 2 1)
    t1.toRat? fmt = some ((raw.toInt : Rat) / (q * 2 ^ k : Nat))
    ∧ t2.toRat? fmt = some ((raw.toInt : Rat) / (q * 2 ^ k : Nat) * c1.toInt)
    ∧ t3.toRat? fmt = some ((c0.toInt : Rat) / 2)
    ∧ compTemp fmt raw.toInt (q * 2 ^ k) c0.toInt c1.toInt = fadd fmt t2 t3
    ∧ (fadd fmt t2 t3).toRat? fmt = some (idealTemp raw.toInt (q * 2 ^ k) c0.toInt c1.toInt)

/-! ## Altitude -/

/-- 00_scope R14: the power function has P1, P2 and P3. -/
def Obligations.PowerHasNamedProperties : Prop :=
  ∀ (fmt : Fmt) (x y : FloatVal),
    (y.finite = true → fpow fmt (ofInt fmt 1) y = ofInt fmt 1)
    ∧ (x.finite = true → x.isZero = false → x.ltZero = false → y.finite = true →
        fpow fmt x y ≠ .nan ∧ (fpow fmt x y).ltZero = false)
    ∧ (x.isZero = true → y.finite = true → y.isZero = false → y.ltZero = false →
        y.isOddInteger fmt = false → fpow fmt x y = .fin false 0)
    ∧ (x.isZero = true → y.ltZero = true → ∃ neg, fpow fmt x y = .inf neg)

/-- 44_altitude R156, R157, R160: `ALT` with `P` and `S` valid and every check of R160 passed writes to
`A` the value of R157's operations, sets its valid bit and answers `OK`; it needs no calibration. -/
def Obligations.AltWritesAltitude : Prop :=
  ∀ s : State, s.eng.fP.valid = true → s.eng.fS.valid = true →
    let f := s.params.fmt
    let p := FloatVal.ofBits f s.eng.fP.val
    let sl := FloatVal.ofBits f s.eng.fS.val
    let u := fdiv f p (fconst f false 100 1)
    let r := fdiv f u sl
    let w := fpow f r (fconst f false 1903 10000)
    let a := fmul f (fconst f false 44330 1) (fsub f (ofInt f 1) w)
    p.finite = true → sl.finite = true → u.finite = true → r.finite = true → r.ltZero = false →
    w.finite = true → a.finite = true →
    exec .alt s = .next { s with
      eng := { s.eng with fA := ⟨true, a.toBits f⟩ }
      cw := none, responses := s.responses ++ [⟨.ok, 0#64⟩] }

/-- 44_altitude R158, R159, R160: `SEALVL`, as `ALT`, from `P` and `H`, with R159's operations. -/
def Obligations.SealvlWritesSeaLevelPressure : Prop :=
  ∀ s : State, s.eng.fP.valid = true → s.eng.fH.valid = true →
    let f := s.params.fmt
    let p := FloatVal.ofBits f s.eng.fP.val
    let h := FloatVal.ofBits f s.eng.fH.val
    let u := fdiv f p (fconst f false 100 1)
    let q := fdiv f h (fconst f false 44330 1)
    let b := fsub f (ofInt f 1) q
    let w := fpow f b (fconst f true 5255 1000)
    let v := fmul f u w
    p.finite = true → h.finite = true → u.finite = true → q.finite = true → b.finite = true →
    b.ltZero = false → w.finite = true → v.finite = true →
    exec .sealvl s = .next { s with
      eng := { s.eng with fS := ⟨true, v.toBits f⟩ }
      cw := none, responses := s.responses ++ [⟨.ok, 0#64⟩] }

/-- 44_altitude R160, 60_exceptions R188: with an operand unwritten both answer `OperandUnwritten`;
with both written and any condition of R160 they answer `DomainError`; neither writes a register. -/
def Obligations.AltitudeErrorsWriteNothing : Prop :=
  ∀ s : State,
    let f := s.params.fmt
    let p := FloatVal.ofBits f s.eng.fP.val
    let sl := FloatVal.ofBits f s.eng.fS.val
    let h := FloatVal.ofBits f s.eng.fH.val
    let u := fdiv f p (fconst f false 100 1)
    let r := fdiv f u sl
    let wa := fpow f r (fconst f false 1903 10000)
    let a := fmul f (fconst f false 44330 1) (fsub f (ofInt f 1) wa)
    let q := fdiv f h (fconst f false 44330 1)
    let b := fsub f (ofInt f 1) q
    let ws := fpow f b (fconst f true 5255 1000)
    let v := fmul f u ws
    let failed := fun e : Status => Host.Outcome.next (φ := Fault) (ρ := Refusal) { s with
      eng := { s.eng with err := s.eng.err.first e }
      cw := none, responses := s.responses ++ [⟨e, 0#64⟩] }
    (s.eng.fP.valid = false ∨ s.eng.fS.valid = false → exec .alt s = failed .operandUnwritten)
    ∧ (s.eng.fP.valid = false ∨ s.eng.fH.valid = false → exec .sealvl s = failed .operandUnwritten)
    ∧ (s.eng.fP.valid = true → s.eng.fS.valid = true →
        (p.finite = false ∨ sl.finite = false ∨ u.finite = false ∨ r.finite = false
          ∨ r.ltZero = true ∨ wa.finite = false ∨ a.finite = false) →
        exec .alt s = failed .domainError)
    ∧ (s.eng.fP.valid = true → s.eng.fH.valid = true →
        (p.finite = false ∨ h.finite = false ∨ u.finite = false ∨ q.finite = false ∨ b.finite = false
          ∨ b.ltZero = true ∨ ws.finite = false ∨ v.finite = false) →
        exec .sealvl s = failed .domainError)

/-- 44_altitude R161: for `H` = 0 of either sign, `SEALVL` then `ALT` with the same `P` gives `A` = +0
exactly, in either format and for every admitted power function, wherever `P/100` is not zero. -/
def Obligations.RoundTripAtZeroAltitudeExact : Prop :=
  ∀ s : State, s.eng.fP.valid = true → s.eng.fH.valid = true →
    (s.floatOf .p).finite = true → (s.floatOf .h).isZero = true →
    (hectopascals s.params.fmt (s.floatOf .p)).isZero = false →
    ∃ t u : State, exec .sealvl s = .next t ∧ exec .alt t = .next u ∧
      t.eng.fS = ⟨true, FloatVal.toBits s.params.fmt (hectopascals s.params.fmt (s.floatOf .p))⟩
      ∧ u.eng.fA = ⟨true, 0#64⟩
      ∧ u.responses = s.responses ++ [⟨.ok, 0#64⟩, ⟨.ok, 0#64⟩]

/-- 44_altitude R156 to R159, R161, 00_scope R13, 90_conflicts C3: the ideal formulas and the computed ones
agree at the exact points. `P/100 = S` gives +0 and the ideal altitude 0; `P` = 0 of either sign with a
positive `S` gives the ideal altitude 44330; `H` = 0 of either sign gives the ideal sea-level pressure
rounded once. And over the reals the round trip returns `44330 * (1 - (1 - h/44330) ^ 1.0000265)`,
which is `h` only at `h` = 0. -/
def Obligations.AltitudeFormulasMeetIdealValues : Prop :=
  (∀ (fmt : Fmt) (p sl : FloatVal) (a b : Rat), p.wf fmt = true → sl.wf fmt = true →
    p.toRat? fmt = some a → sl.toRat? fmt = some b → b ≠ 0 →
    (a = 100 * b → altValue fmt p sl = .fin false 0 ∧ idealAlt a b = 0)
    ∧ (a = 0 → 0 < b → (altValue fmt p sl).toRat? fmt = some 44330 ∧ idealAlt a b = 44330))
  ∧ (∀ (fmt : Fmt) (p h : FloatVal) (a : Rat), p.wf fmt = true → p.toRat? fmt = some a →
    h.isZero = true →
    NearestEven fmt (a / 100) (seaValue fmt p h) ∧ idealSlp a 0 = ((a / 100 : Rat) : ℝ))
  ∧ ∀ p h : ℝ, 0 < p → h < 44330 →
    idealAlt p (idealSlp p h) = 44330 * (1 - (1 - h / 44330) ^ (1.0000265 : ℝ))
    ∧ (idealAlt p (idealSlp p h) = h ↔ h = 0)

/-- 10_state R31, 60_exceptions R189: with an admissible scale table, whatever floating register a
command other than `WRF` changes then holds a finite value. -/
def Obligations.OnlyWrfWritesNonFinite : Prop :=
  ∀ (i : Instr) (s t : State) (r : FReg), s.params.Admissible → (∀ n, i ≠ .wrf n) →
    exec i s = .next t → t.eng.freg r ≠ s.eng.freg r →
    (FloatVal.ofBits s.params.fmt (t.eng.freg r).val).finite = true

/-! ## Host access -/

/-- 45_host_access R170: `WRF r` puts the `FLEN` bits of `DIN` unchanged into the register and sets its
valid bit, for each of the five; a selector above 4 is the illegal command. -/
def Obligations.WrfStoresPattern : Prop :=
  ∀ s : State,
    let v := match s.params.fmt with
      | .binary32 => (s.din.setWidth 32).setWidth 64
      | .binary64 => s.din
    let done := fun e : Engine => Host.Outcome.next (φ := Fault) (ρ := Refusal) { s with
      eng := e, cw := none, responses := s.responses ++ [⟨.ok, 0#64⟩] }
    exec (.wrf 0#4) s = done { s.eng with fT := ⟨true, v⟩ }
    ∧ exec (.wrf 1#4) s = done { s.eng with fP := ⟨true, v⟩ }
    ∧ exec (.wrf 2#4) s = done { s.eng with fA := ⟨true, v⟩ }
    ∧ exec (.wrf 3#4) s = done { s.eng with fS := ⟨true, v⟩ }
    ∧ exec (.wrf 4#4) s = done { s.eng with fH := ⟨true, v⟩ }
    ∧ ∀ r : BitVec 4, 4 < r.toNat → exec (.wrf r) s = .next { s with
        eng := { s.eng with err := s.eng.err.first .illegalCommand }
        cw := none, responses := s.responses ++ [⟨.illegalCommand, 0#64⟩] }

/-- 45_host_access R171: `RDF r` answers the register's pattern, zero above `FLEN` bits, when its valid
bit is 1, else `OperandUnwritten`; a selector above 4 is the illegal command. -/
def Obligations.RdfAnswersPattern : Prop :=
  ∀ s : State,
    (∀ (n : Nat) (r : Reg 64),
      [s.eng.fT, s.eng.fP, s.eng.fA, s.eng.fS, s.eng.fH][n]? = some r →
      (r.valid = true → exec (.rdf (BitVec.ofNat 4 n)) s = .next { s with
        cw := none, responses := s.responses ++ [⟨.ok, s.params.fmt.low r.val⟩] })
      ∧ (r.valid = false → exec (.rdf (BitVec.ofNat 4 n)) s = .next { s with
        eng := { s.eng with err := s.eng.err.first .operandUnwritten }
        cw := none, responses := s.responses ++ [⟨.operandUnwritten, 0#64⟩] }))
    ∧ ∀ r : BitVec 4, 4 < r.toNat → exec (.rdf r) s = .next { s with
        eng := { s.eng with err := s.eng.err.first .illegalCommand }
        cw := none, responses := s.responses ++ [⟨.illegalCommand, 0#64⟩] }

/-- 45_host_access R172, 10_state R34: `RDSTAT` answers `STATUS`, each field in its place, and changes
nothing. -/
def Obligations.RdstatAnswersStatus : Prop :=
  ∀ s : State, ∃ w : BitVec 32,
    exec .rdstat s = .next { s with cw := none, responses := s.responses ++ [⟨.ok, w.setWidth 64⟩] }
    ∧ w.getLsbD 0 = s.eng.calv ∧ w.getLsbD 1 = s.eng.rawP.valid ∧ w.getLsbD 2 = s.eng.rawT.valid
    ∧ w.getLsbD 3 = s.eng.osP.valid ∧ w.getLsbD 4 = s.eng.osT.valid
    ∧ w.getLsbD 5 = s.eng.fT.valid ∧ w.getLsbD 6 = s.eng.fP.valid ∧ w.getLsbD 7 = s.eng.fA.valid
    ∧ w.getLsbD 8 = s.eng.fS.valid ∧ w.getLsbD 9 = s.eng.fH.valid
    ∧ w.extractLsb' 10 4 = s.eng.err.code
    ∧ w.extractLsb' 14 3 = (if s.eng.osP.valid then s.eng.osP.val else 0#3)
    ∧ w.extractLsb' 17 3 = (if s.eng.osT.valid then s.eng.osT.val else 0#3)
    ∧ w.extractLsb' 20 12 = 0#12

/-- 10_state R27, R29, R30 (the columns written by): a raw register changes only under its own load or
`SETRAW`, a level register only under `SETOS` of its channel, a floating register only under the
commands of its row. -/
def Obligations.RegistersWrittenOnlyByTheirCommands : Prop :=
  ∀ (i : Instr) (s t : State), exec i s = .next t →
    (t.eng.rawP = s.eng.rawP ∨ i = .ldrawp ∨ ∃ v, i = .setraw .pressure v)
    ∧ (t.eng.rawT = s.eng.rawT ∨ i = .ldrawt ∨ ∃ v, i = .setraw .temperature v)
    ∧ (t.eng.osP = s.eng.osP ∨ ∃ l, i = .setos .pressure l)
    ∧ (t.eng.osT = s.eng.osT ∨ ∃ l, i = .setos .temperature l)
    ∧ (t.eng.fT = s.eng.fT ∨ i = .compt ∨ i = .wrf 0#4)
    ∧ (t.eng.fP = s.eng.fP ∨ i = .compp ∨ i = .wrf 1#4)
    ∧ (t.eng.fA = s.eng.fA ∨ i = .alt ∨ i = .wrf 2#4)
    ∧ (t.eng.fS = s.eng.fS ∨ i = .sealvl ∨ i = .wrf 3#4)
    ∧ (t.eng.fH = s.eng.fH ∨ i = .wrf 4#4)

/-! ## Errors and whole-machine rules -/

/-- 60_exceptions R183: a command that answers a status other than `OK` has changed no register but
`ERR`, which takes the code only if it was `OK`; `DOUT` is 0 and the engine is ready. -/
def Obligations.FailedCommandChangesOnlyErr : Prop :=
  ∀ (i : Instr) (s t : State) (r : Response), exec i s = .next t →
    t.responses = s.responses ++ [r] → r.st ≠ .ok →
    r.dout = 0#64 ∧ t.cw = none
    ∧ t.eng = { s.eng with err := if s.eng.err = .ok then r.st else s.eng.err }

/-- 60_exceptions R181, R188: a command answers only the statuses the table gives it; a command that
answers `OK` leaves `ERR` as it was (10_state R33). -/
def Obligations.StatusesAsTabled : Prop :=
  ∀ (i : Instr) (s t : State) (r : Response), exec i s = .next t →
    t.responses = s.responses ++ [r] →
    r.st ∈ allowedStatus i ∧ (r.st = .ok → t.eng.err = s.eng.err)

/-- 10_state R33: that `ERR` is the first error among the responses since reset is kept by every step;
so `ERR` is `OK` exactly when every response was (70_reset R242). -/
def Obligations.ErrIsFirstErrorInvariant : Prop :=
  (∀ s t : State, s.ErrIsFirst → step s = .next t → t.ErrIsFirst)
  ∧ ∀ s : State, s.ErrIsFirst → (s.eng.err = .ok ↔ s.Succeeded)

/-- 10_state R30, 30_encoding R81: that every floating register, `DIN` and `DOUT` hold `FLEN`-bit
patterns (in binary32 nothing above bit 31) is kept by every step. -/
def Obligations.PatternsFitInvariant : Prop :=
  ∀ s t : State, s.PatternsFit → step s = .next t → t.PatternsFit

/-- 10_state R41: what a valid bit of 0 hides cannot be observed: two states that differ only there take
steps with the same outcome, the same responses and the same bus traffic, and differ only there after. -/
def Obligations.UnwrittenContentsUnobservable : Prop :=
  ∀ s t : State, s.Agrees t → sameOutcome (step s) (step t)

/-! ## The host's duties -/

/-- 60_exceptions R201, R200 (log 15, 19, 20, 29): `setMode` of a reserved mode, or of a mode below the
continuous class while a level is nonzero, is `InvalidMode` with no bus transaction; otherwise it reads
MEAS_STATUS and writes it back with only the mode bits replaced; a failure of either transaction is
`BusError`, with no retry and nothing after it. -/
def Obligations.SetModeChecksThenRewrites : Prop :=
  ∀ (s : State) (mode : OperatingMode) (rest : List HostAction),
    s.rst = [] → s.cw = none → s.pending = .setMode mode :: rest →
    let bad := mode = .invalid1 ∨ mode = .invalid2
      ∨ ((mode = .idle ∨ mode = .pressureOnly ∨ mode = .temperatureOnly)
          ∧ (s.hostP.level ≠ 0#3 ∨ s.hostT.level ≠ 0#3))
    (bad → step s = .next { s with pending := rest, hostLog := s.hostLog ++ [.invalidMode] })
    ∧ (¬ bad → s.readData 0x08#7 1 = none →
        step s = .next { s.afterRead 0x08#7 1 with
          pending := rest, hostLog := s.hostLog ++ [.busError] })
    ∧ (¬ bad → ∀ b : Byte, s.readData 0x08#7 1 = some [b] →
        let v := (b &&& 0xF8#8) ||| mode.code.setWidth 8
        step s = .next { (s.afterRead 0x08#7 1).afterWrite 0x08#7 v with
          pending := rest
          hostLog := s.hostLog
            ++ [if (s.afterRead 0x08#7 1).writeOk 0x08#7 v then .ok else .busError] })

/-- 60_exceptions R200, 20_memory R50 (log 15, 24, 29): a host register access is one transaction; its result, or
`BusError` with no retry, is logged; an address above 0x7F does not exist. -/
def Obligations.HostRegisterAccess : Prop :=
  ∀ (s : State) (a v : Byte) (rest : List HostAction), s.rst = [] → s.cw = none →
    (a.toNat < 128 → s.pending = .readReg a :: rest →
      (∀ b : Byte, s.readData (a.setWidth 7) 1 = some [b] →
        step s = .next { s.afterRead (a.setWidth 7) 1 with
          pending := rest, hostLog := s.hostLog ++ [.value b] })
      ∧ (s.readData (a.setWidth 7) 1 = none →
        step s = .next { s.afterRead (a.setWidth 7) 1 with
          pending := rest, hostLog := s.hostLog ++ [.busError] }))
    ∧ (a.toNat < 128 → s.pending = .writeReg a v :: rest →
      step s = .next { s.afterWrite (a.setWidth 7) v with
        pending := rest
        hostLog := s.hostLog ++ [if s.writeOk (a.setWidth 7) v then .ok else .busError] })
    ∧ (128 ≤ a.toNat → s.pending = .readReg a :: rest ∨ s.pending = .writeReg a v :: rest →
      step s = .fault .noSuchAddress)

/-- 60_exceptions R203, R200 (log 15 to 18, 22, 29): `configureChannel` outside the budget writes nothing;
inside it, it writes rate and level, sets the channel's shift bit for levels above 3 and clears it
otherwise, and presents `SETOS` with that level next. A failure of any of the three transactions is
`BusError`, with no retry and nothing after it; the host's memory takes the configuration when the first
has succeeded (log 16). -/
def Obligations.ConfigureChannelArmsSensorThenEngine : Prop :=
  ∀ (s : State) (ch : Channel) (rate level : BitVec 3) (rest : List HostAction),
    s.rst = [] → s.cw = none → s.pending = .configureChannel ch rate level :: rest →
    let budget := match ch with
      | .pressure => Config.budgetOk rate level s.hostT.rate s.hostT.level
      | .temperature => Config.budgetOk s.hostP.rate s.hostP.level rate level
    let addr : BitVec 7 := match ch with
      | .pressure => 0x06#7
      | .temperature => 0x07#7
    let shift : Byte := match ch with
      | .pressure => 0x04#8
      | .temperature => 0x08#8
    (budget = false →
      step s = .next { s with
        pending := rest, hostLog := s.hostLog ++ [.invalidRateOversamplingCombination] })
    ∧ (budget = true →
        let v : Byte := BitVec.ofBool (Config.configBit7 ch s.history) ++ rate ++ 0#1 ++ level
        let s1 := s.afterWrite addr v
        let newP := if ch = .pressure then ⟨rate, level⟩ else s.hostP
        let newT := if ch = .temperature then ⟨rate, level⟩ else s.hostT
        (s.writeOk addr v = false →
          step s = .next { s1 with pending := rest, hostLog := s.hostLog ++ [.busError] })
        ∧ (s.writeOk addr v = true → s1.readData 0x09#7 1 = none →
          step s = .next { s1.afterRead 0x09#7 1 with
            pending := rest, hostP := newP, hostT := newT, hostLog := s.hostLog ++ [.busError] })
        ∧ (s.writeOk addr v = true → ∀ b : Byte, s1.readData 0x09#7 1 = some [b] →
          let f := if 3 < level.toNat then b ||| shift else b &&& ~~~shift
          ((s1.afterRead 0x09#7 1).writeOk 0x09#7 f = false →
            step s = .next { (s1.afterRead 0x09#7 1).afterWrite 0x09#7 f with
              pending := rest, hostP := newP, hostT := newT, hostLog := s.hostLog ++ [.busError] })
          ∧ ((s1.afterRead 0x09#7 1).writeOk 0x09#7 f = true →
            step s = .next { (s1.afterRead 0x09#7 1).afterWrite 0x09#7 f with
              pending := .command (encode (.setos ch level)) 0#64 :: rest
              hostP := newP, hostT := newT, hostLog := s.hostLog ++ [.ok] })))

/-- 60_exceptions R204, R200 (log 15, 29): the sensor's `reset()` writes 0x89 to 0x0C, sleeps 10 ms, and then
waits for MEAS_STATUS bit 6, 20 ms between polls, without bound; when it ends the host issues `LDCAL` and
`SETOS` again, next and for both channels, with levels the spec leaves open (log 30). A failed
transaction is `BusError`, with no retry and nothing after it. -/
def Obligations.SensorResetWritesThenWaits : Prop :=
  ∀ (s : State) (rest : List HostAction), s.rst = [] → s.cw = none →
    (s.pending = .sensorReset :: rest →
      (s.writeOk 0x0C#7 0x89#8 = true → step s = .next { s.afterWrite 0x0C#7 0x89#8 with
        pending := .waitSensorReady :: rest
        history := (s.afterWrite 0x0C#7 0x89#8).history ++ [.sleep 10] })
      ∧ (s.writeOk 0x0C#7 0x89#8 = false → step s = .next { s.afterWrite 0x0C#7 0x89#8 with
        pending := rest, hostLog := s.hostLog ++ [.busError] }))
    ∧ (s.pending = .waitSensorReady :: rest →
      (s.readData 0x08#7 1 = none → step s = .next { s.afterRead 0x08#7 1 with
        pending := rest, hostLog := s.hostLog ++ [.busError] })
      ∧ ∀ b : Byte, s.readData 0x08#7 1 = some [b] →
        (b.getLsbD 6 = true → ∃ levelP levelT : BitVec 3, step s = .next { s.afterRead 0x08#7 1 with
          pending := .command 0x20000000#32 0#64 :: .command (encode (.setos .pressure levelP)) 0#64
            :: .command (encode (.setos .temperature levelT)) 0#64 :: rest
          hostLog := s.hostLog ++ [.ok] })
        ∧ (b.getLsbD 6 = false → step s = .next { s.afterRead 0x08#7 1 with
          history := (s.afterRead 0x08#7 1).history ++ [.sleep 20] }))

/-- 60_exceptions R205, R206, R200 (log 15, 21, 29): `waitMeasurementAvailable` polls until bits 5 and 4 are
both set, sleeping the caller's interval between polls, without bound; a product id other than 0x10 is
`UnexpectedDeviceId`, after which the host does nothing further. A failed transaction of either is
`BusError`, with no retry. -/
def Obligations.WaitMeasurementAndProductId : Prop :=
  ∀ (s : State) (ms : Nat) (rest : List HostAction), s.rst = [] → s.cw = none →
    (s.pending = .waitMeasurement ms :: rest →
      (s.readData 0x08#7 1 = none → step s = .next { s.afterRead 0x08#7 1 with
        pending := rest, hostLog := s.hostLog ++ [.busError] })
      ∧ ∀ b : Byte, s.readData 0x08#7 1 = some [b] →
        (b.getLsbD 5 = true → b.getLsbD 4 = true → step s = .next { s.afterRead 0x08#7 1 with
          pending := rest, hostLog := s.hostLog ++ [.ok] })
        ∧ (b.getLsbD 5 = false ∨ b.getLsbD 4 = false → step s = .next { s.afterRead 0x08#7 1 with
          history := (s.afterRead 0x08#7 1).history ++ [.sleep ms] }))
    ∧ (s.pending = .checkProductId :: rest →
      (s.readData 0x0D#7 1 = none → step s = .next { s.afterRead 0x0D#7 1 with
        pending := rest, hostLog := s.hostLog ++ [.busError] })
      ∧ ∀ b : Byte, s.readData 0x0D#7 1 = some [b] →
        (b = 0x10#8 → step s = .next { s.afterRead 0x0D#7 1 with
          pending := rest, hostLog := s.hostLog ++ [.ok] })
        ∧ (b ≠ 0x10#8 → step s = .next { s.afterRead 0x0D#7 1 with
          pending := [], hostLog := s.hostLog ++ [.unexpectedDeviceId] }))

/-- 00_scope R16, 60_exceptions Part 3, R198, 10_state R24, R27, R29: with the port free, a command the
host has to present arrives at the port with its data word, at its beginning (log 7); with nothing to do
the machine keeps all state but a sample of `RST` (log 14); and no host move changes the engine's state
or answers a command: the host's only way to the engine is a command. -/
def Obligations.HostPresentsCommandsAndLeavesEngineAlone : Prop :=
  (∀ (s : State) (w : Word) (d : Pattern) (rest : List HostAction),
    s.rstAsserted = false → s.cw = none → s.pending = .command w d :: rest →
    step s = .next { s with
      rst := s.rst.tail, pending := rest, cw := some w, phase := .poll, din := s.params.fmt.low d })
  ∧ (∀ s : State, s.rstAsserted = false → s.cw = none → s.pending = [] →
    step s = .next { s with rst := s.rst.tail })
  ∧ ∀ s t : State, s.rstAsserted = false → s.cw = none → step s = .next t →
    t.eng = s.eng ∧ t.responses = s.responses
    ∧ (t.cw = none ∨ ∃ w d, s.pending.head? = some (.command w d) ∧ t.cw = some w
        ∧ t.history = s.history)
end

