-- ==== Sys2Proof/Laws/Decode.lean ====
section
/-! SUPPORT. The fields of a command word, and that a word is made of its fields. -/

namespace Sys2Proof

/-- Every bit of a command word, by field (30_encoding R80). -/
theorem wordOf_getLsbD (op sel : BitVec 4) (imm : BitVec 24) (j : Nat) :
    (wordOf op sel imm).getLsbD j
      = if j < 24 then imm.getLsbD j else if j < 28 then sel.getLsbD (j - 24)
        else op.getLsbD (j - 28) := by
  change BitVec.getLsbD (op ++ sel ++ imm : BitVec (4 + 4 + 24)) j = _
  rw [BitVec.getLsbD_append, BitVec.getLsbD_append]
  split
  · rfl
  · split <;> split <;> first | rfl | omega

@[simp] theorem opOf_wordOf (op sel : BitVec 4) (imm : BitVec 24) : opOf (wordOf op sel imm) = op := by
  unfold opOf
  ext i hi
  rw [BitVec.getElem_extractLsb', wordOf_getLsbD, if_neg (by omega), if_neg (by omega),
    ← BitVec.getLsbD_eq_getElem]
  congr 1; omega

@[simp] theorem selOf_wordOf (op sel : BitVec 4) (imm : BitVec 24) : selOf (wordOf op sel imm) = sel := by
  unfold selOf
  ext i hi
  rw [BitVec.getElem_extractLsb', wordOf_getLsbD, if_neg (by omega), if_pos (by omega),
    ← BitVec.getLsbD_eq_getElem]
  congr 1; omega

@[simp] theorem immOf_wordOf (op sel : BitVec 4) (imm : BitVec 24) : immOf (wordOf op sel imm) = imm := by
  unfold immOf
  ext i hi
  rw [BitVec.getElem_extractLsb', wordOf_getLsbD, if_pos (by omega), ← BitVec.getLsbD_eq_getElem]
  congr 1; omega

/-- A command word is nothing but its three fields. -/
theorem wordOf_fields (w : Word) : wordOf (opOf w) (selOf w) (immOf w) = w := by
  ext i hi
  rw [← BitVec.getLsbD_eq_getElem, wordOf_getLsbD, ← BitVec.getLsbD_eq_getElem]
  unfold opOf selOf immOf
  split
  · rw [BitVec.getLsbD_extractLsb']; simp only [Nat.zero_add]; simp; omega
  · split
    · rw [BitVec.getLsbD_extractLsb', Nat.add_sub_cancel' (by omega)]; simp; omega
    · rw [BitVec.getLsbD_extractLsb', Nat.add_sub_cancel' (by omega)]; simp; omega

end Sys2Proof
end

