-- ==== Sys2Proof/Laws/Float.lean ====
section
/-! SUPPORT. The floating operations: results are data of the format, a datum's pattern gives it back,
and the nearest whole number is no further than a half. -/

namespace Sys2Proof

/-- The rounded quotient is within a half of the quotient; on a tie it is even. -/
theorem roundHalfEven_near (num den : Nat) (h : 0 < den) :
    2 * (roundHalfEven num den * den) ≤ 2 * num + den ∧
    2 * num ≤ 2 * (roundHalfEven num den * den) + den ∧
    (2 * num + den = 2 * (roundHalfEven num den * den) ∨ 2 * num = 2 * (roundHalfEven num den * den) + den →
      roundHalfEven num den % 2 = 0) := by
  have e := Nat.div_add_mod num den
  have l := Nat.mod_lt num h
  have c : num / den * den = den * (num / den) := Nat.mul_comm _ _
  unfold roundHalfEven
  simp only
  split
  · rename_i h1; rw [c]; omega
  · split
    · rename_i h1 h2; rw [Nat.add_mul, c]; omega
    · rename_i h1 h2
      have p : num / den % 2 = 0 ∨ num / den % 2 = 1 := by omega
      rcases p with p | p
      · rw [p, Nat.add_zero, c]; omega
      · rw [p, Nat.add_mul, c]; omega

/-- A whole quotient is left as it is. -/
theorem roundHalfEven_exact (n den : Nat) (h : 0 < den) : roundHalfEven (n * den) den = n := by
  simp [roundHalfEven, Nat.mul_div_cancel _ h, h]

/-- Rounding gives a datum of the format. -/
theorem roundTo_wf (fmt : Fmt) (neg : Bool) (num den : Nat) : (roundTo fmt neg num den).wf fmt = true := by
  unfold roundTo
  simp only
  split
  · rename_i h; simpa [FloatVal.wf] using h
  · rfl

theorem ofInt_wf (fmt : Fmt) (i : Int) : (ofInt fmt i).wf fmt = true := roundTo_wf ..

theorem fconst_wf (fmt : Fmt) (neg : Bool) (num den : Nat) : (fconst fmt neg num den).wf fmt = true :=
  roundTo_wf ..

theorem infMag_pos (fmt : Fmt) : 0 < fmt.infMag := by cases fmt <;> decide

theorem fadd_wf (fmt : Fmt) (x y : FloatVal) : (fadd fmt x y).wf fmt = true := by
  unfold fadd
  split <;> try rfl
  · split <;> rfl
  · unfold addFinite
    simp only
    split
    · exact roundTo_wf ..
    · split
      · exact roundTo_wf ..
      · split
        · exact roundTo_wf ..
        · simpa [FloatVal.wf] using infMag_pos fmt

theorem fsub_wf (fmt : Fmt) (x y : FloatVal) : (fsub fmt x y).wf fmt = true := fadd_wf ..

theorem fmul_wf (fmt : Fmt) (x y : FloatVal) : (fmul fmt x y).wf fmt = true := by
  unfold fmul
  split <;> try rfl
  · split <;> rfl
  · split <;> rfl
  · exact roundTo_wf ..

theorem fdiv_wf (fmt : Fmt) (x y : FloatVal) : (fdiv fmt x y).wf fmt = true := by
  unfold fdiv
  split <;> try rfl
  · simpa [FloatVal.wf] using infMag_pos fmt
  · split
    · split <;> rfl
    · exact roundTo_wf ..

theorem FloatVal.ofBits_wf (fmt : Fmt) (b : Pattern) : (FloatVal.ofBits fmt b).wf fmt = true := by
  unfold FloatVal.ofBits
  simp only
  split
  · rename_i h; simpa [FloatVal.wf] using h
  · split <;> rfl

/-- Cutting to `FLEN` bits twice is cutting once. -/
@[simp] theorem Fmt.low_low (fmt : Fmt) (b : Pattern) : fmt.low (fmt.low b) = fmt.low b := by
  cases fmt
  · simp [Fmt.low]
  · rfl

/-- A finite datum's pattern stands for that datum (45_host_access R170, R171). -/
theorem FloatVal.ofBits_toBits (fmt : Fmt) (neg : Bool) (mag : Nat) (h : mag < fmt.infMag) :
    FloatVal.ofBits fmt (FloatVal.toBits fmt (.fin neg mag)) = .fin neg mag := by
  cases fmt <;> cases neg <;> simp only [Fmt.infMag] at h <;>
    simp only [FloatVal.ofBits, FloatVal.toBits, Fmt.flen, Fmt.infMag, BitVec.toNat_ofNat,
      Bool.toNat_false, Bool.toNat_true, Nat.zero_mul, Nat.zero_add, Nat.one_mul]
  · have e : mag % 2 ^ 64 % 2 ^ 32 = mag := by omega
    rw [e]
    have e2 : mag % 2 ^ (32 - 1) = mag := by omega
    rw [e2, if_pos h]
    congr 1; simp; omega
  · have e : (2 ^ (32 - 1) + mag) % 2 ^ 64 % 2 ^ 32 = 2 ^ 31 + mag := by omega
    rw [e]
    have e2 : (2 ^ 31 + mag) % 2 ^ (32 - 1) = mag := by omega
    rw [e2, if_pos h]
    congr 1; simp
  · have e : mag % 2 ^ 64 % 2 ^ 64 = mag := by omega
    rw [e]
    have e2 : mag % 2 ^ (64 - 1) = mag := by omega
    rw [e2, if_pos h]
    congr 1; simp; omega
  · have e : (2 ^ (64 - 1) + mag) % 2 ^ 64 % 2 ^ 64 = 2 ^ 63 + mag := by omega
    rw [e]
    have e2 : (2 ^ 63 + mag) % 2 ^ (64 - 1) = mag := by omega
    rw [e2, if_pos h]
    congr 1; simp

/-- A datum's pattern has `FLEN` bits. -/
theorem Fmt.low_toBits (fmt : Fmt) (x : FloatVal) (h : x.wf fmt = true) :
    fmt.low (x.toBits fmt) = x.toBits fmt := by
  cases fmt with
  | binary64 => rfl
  | binary32 =>
    cases x with
    | nan => exact Fmt.low_low .binary32 _
    | inf neg => cases neg <;> decide
    | fin neg mag =>
      have h : mag < Fmt.infMag .binary32 := of_decide_eq_true h
      simp only [Fmt.infMag] at h
      apply BitVec.eq_of_toNat_eq
      cases neg <;> simp [Fmt.low, FloatVal.toBits, Fmt.flen] <;> omega

end Sys2Proof
end

