-- ==== Sys2Proof/Laws/Image.lean ====
section
/-! SUPPORT. The static image: writing keeps the canonical form, a written address reads as written, and
every other address reads as before. -/

namespace Sys2Proof.Machine

/-- A write at an address above the bound keeps the list sorted above the bound. -/
theorem imageSorted_write (m : List Host.Cell) : ∀ (low x : Nat) (v : Byte), low ≤ x → x < 128 →
    imageSorted low m = true → imageSorted low (Image.write m x v) = true := by
  induction m with
  | nil => intro low x v hl hx _; simp [Image.write, imageSorted, hl, hx]
  | cons c rest ih =>
    obtain ⟨a, b⟩ := c
    intro low x v hl hx h
    simp only [imageSorted, Bool.and_eq_true, decide_eq_true_eq] at h
    obtain ⟨⟨h1, h2⟩, h3⟩ := h
    unfold Image.write
    split
    · rename_i hxa
      simp only [imageSorted, Bool.and_eq_true, decide_eq_true_eq]
      exact ⟨⟨hl, hx⟩, ⟨hxa, h2⟩, h3⟩
    · split
      · simp only [imageSorted, Bool.and_eq_true, decide_eq_true_eq]
        exact ⟨⟨h1, h2⟩, h3⟩
      · simp only [imageSorted, Bool.and_eq_true, decide_eq_true_eq]
        exact ⟨⟨h1, h2⟩, ih (a + 1) x v (by omega) hx h3⟩

/-- Writing inside the sensor space keeps the canonical form. -/
theorem Image.write_wf (m : List Host.Cell) (x : Nat) (v : Byte) (hx : x < 128)
    (h : Image.wf m = true) : Image.wf (Image.write m x v) = true :=
  imageSorted_write m 0 x v (Nat.zero_le x) hx h

/-- What is written is what is read back. -/
theorem Image.read_write_same (m : List Host.Cell) (x : Nat) (v : Byte) :
    Image.read (Image.write m x v) x = some v := by
  induction m with
  | nil => simp [Image.write, Image.read]
  | cons c rest ih =>
    obtain ⟨a, b⟩ := c
    unfold Image.write
    split
    · simp [Image.read]
    · split
      · rename_i h; simp [Image.read, h]
      · rename_i h1 h2
        simp [Image.read, ih, Ne.symm h2]

/-- A write leaves every other address as it was. -/
theorem Image.read_write_other (m : List Host.Cell) (x y : Nat) (v : Byte) (hxy : y ≠ x) :
    Image.read (Image.write m x v) y = Image.read m y := by
  induction m with
  | nil => simp [Image.write, Image.read, Ne.symm hxy]
  | cons c rest ih =>
    obtain ⟨a, b⟩ := c
    unfold Image.write
    split
    · simp [Image.read, Ne.symm hxy]
    · split
      · rename_i h; subst h; simp [Image.read, Ne.symm hxy]
      · simp [Image.read, ih]

end Sys2Proof.Machine
end

