-- ==== Sys2Proof/Laws/State.lean ====
section
/-! SUPPORT. One lemma per field per update, so that no proof unfolds a record update: the state's
shared updates, then the engine's register updates. -/

namespace Sys2Proof.Machine

/-! ### respond -/

@[simp] theorem State.respond_params (s : State) (v : BitVec 64) : (s.respond v).params = s.params := rfl
@[simp] theorem State.respond_eng (s : State) (v : BitVec 64) : (s.respond v).eng = s.eng := rfl
@[simp] theorem State.respond_cw (s : State) (v : BitVec 64) : (s.respond v).cw = none := rfl
@[simp] theorem State.respond_phase (s : State) (v : BitVec 64) : (s.respond v).phase = s.phase := rfl
@[simp] theorem State.respond_din (s : State) (v : BitVec 64) : (s.respond v).din = s.din := rfl
@[simp] theorem State.respond_responses (s : State) (v : BitVec 64) : (s.respond v).responses = s.responses ++ [⟨.ok, v⟩] := rfl
@[simp] theorem State.respond_rst (s : State) (v : BitVec 64) : (s.respond v).rst = s.rst := rfl
@[simp] theorem State.respond_pending (s : State) (v : BitVec 64) : (s.respond v).pending = s.pending := rfl
@[simp] theorem State.respond_hostP (s : State) (v : BitVec 64) : (s.respond v).hostP = s.hostP := rfl
@[simp] theorem State.respond_hostT (s : State) (v : BitVec 64) : (s.respond v).hostT = s.hostT := rfl
@[simp] theorem State.respond_hostLog (s : State) (v : BitVec 64) : (s.respond v).hostLog = s.hostLog := rfl
@[simp] theorem State.respond_script (s : State) (v : BitVec 64) : (s.respond v).script = s.script := rfl
@[simp] theorem State.respond_image (s : State) (v : BitVec 64) : (s.respond v).image = s.image := rfl
@[simp] theorem State.respond_history (s : State) (v : BitVec 64) : (s.respond v).history = s.history := rfl

/-! ### raise -/

@[simp] theorem State.raise_params (s : State) (e : Status) : (s.raise e).params = s.params := rfl
@[simp] theorem State.raise_eng (s : State) (e : Status) : (s.raise e).eng = { s.eng with err := s.eng.err.first e } := rfl
@[simp] theorem State.raise_cw (s : State) (e : Status) : (s.raise e).cw = none := rfl
@[simp] theorem State.raise_phase (s : State) (e : Status) : (s.raise e).phase = s.phase := rfl
@[simp] theorem State.raise_din (s : State) (e : Status) : (s.raise e).din = s.din := rfl
@[simp] theorem State.raise_responses (s : State) (e : Status) : (s.raise e).responses = s.responses ++ [⟨e, 0#64⟩] := rfl
@[simp] theorem State.raise_rst (s : State) (e : Status) : (s.raise e).rst = s.rst := rfl
@[simp] theorem State.raise_pending (s : State) (e : Status) : (s.raise e).pending = s.pending := rfl
@[simp] theorem State.raise_hostP (s : State) (e : Status) : (s.raise e).hostP = s.hostP := rfl
@[simp] theorem State.raise_hostT (s : State) (e : Status) : (s.raise e).hostT = s.hostT := rfl
@[simp] theorem State.raise_hostLog (s : State) (e : Status) : (s.raise e).hostLog = s.hostLog := rfl
@[simp] theorem State.raise_script (s : State) (e : Status) : (s.raise e).script = s.script := rfl
@[simp] theorem State.raise_image (s : State) (e : Status) : (s.raise e).image = s.image := rfl
@[simp] theorem State.raise_history (s : State) (e : Status) : (s.raise e).history = s.history := rfl

/-! ### stillExecuting -/

@[simp] theorem State.stillExecuting_params (s : State) (p : LdcalPhase) : (s.stillExecuting p).params = s.params := rfl
@[simp] theorem State.stillExecuting_eng (s : State) (p : LdcalPhase) : (s.stillExecuting p).eng = s.eng := rfl
@[simp] theorem State.stillExecuting_cw (s : State) (p : LdcalPhase) : (s.stillExecuting p).cw = some (encode .ldcal) := rfl
@[simp] theorem State.stillExecuting_phase (s : State) (p : LdcalPhase) : (s.stillExecuting p).phase = p := rfl
@[simp] theorem State.stillExecuting_din (s : State) (p : LdcalPhase) : (s.stillExecuting p).din = s.din := rfl
@[simp] theorem State.stillExecuting_responses (s : State) (p : LdcalPhase) : (s.stillExecuting p).responses = s.responses := rfl
@[simp] theorem State.stillExecuting_rst (s : State) (p : LdcalPhase) : (s.stillExecuting p).rst = s.rst := rfl
@[simp] theorem State.stillExecuting_pending (s : State) (p : LdcalPhase) : (s.stillExecuting p).pending = s.pending := rfl
@[simp] theorem State.stillExecuting_hostP (s : State) (p : LdcalPhase) : (s.stillExecuting p).hostP = s.hostP := rfl
@[simp] theorem State.stillExecuting_hostT (s : State) (p : LdcalPhase) : (s.stillExecuting p).hostT = s.hostT := rfl
@[simp] theorem State.stillExecuting_hostLog (s : State) (p : LdcalPhase) : (s.stillExecuting p).hostLog = s.hostLog := rfl
@[simp] theorem State.stillExecuting_script (s : State) (p : LdcalPhase) : (s.stillExecuting p).script = s.script := rfl
@[simp] theorem State.stillExecuting_image (s : State) (p : LdcalPhase) : (s.stillExecuting p).image = s.image := rfl
@[simp] theorem State.stillExecuting_history (s : State) (p : LdcalPhase) : (s.stillExecuting p).history = s.history := rfl

/-! ### leaveLdcal -/

@[simp] theorem State.leaveLdcal_params (s : State) : (s.leaveLdcal).params = s.params := rfl
@[simp] theorem State.leaveLdcal_eng (s : State) : (s.leaveLdcal).eng = s.eng := rfl
@[simp] theorem State.leaveLdcal_cw (s : State) : (s.leaveLdcal).cw = s.cw := rfl
@[simp] theorem State.leaveLdcal_phase (s : State) : (s.leaveLdcal).phase = .poll := rfl
@[simp] theorem State.leaveLdcal_din (s : State) : (s.leaveLdcal).din = s.din := rfl
@[simp] theorem State.leaveLdcal_responses (s : State) : (s.leaveLdcal).responses = s.responses := rfl
@[simp] theorem State.leaveLdcal_rst (s : State) : (s.leaveLdcal).rst = s.rst := rfl
@[simp] theorem State.leaveLdcal_pending (s : State) : (s.leaveLdcal).pending = s.pending := rfl
@[simp] theorem State.leaveLdcal_hostP (s : State) : (s.leaveLdcal).hostP = s.hostP := rfl
@[simp] theorem State.leaveLdcal_hostT (s : State) : (s.leaveLdcal).hostT = s.hostT := rfl
@[simp] theorem State.leaveLdcal_hostLog (s : State) : (s.leaveLdcal).hostLog = s.hostLog := rfl
@[simp] theorem State.leaveLdcal_script (s : State) : (s.leaveLdcal).script = s.script := rfl
@[simp] theorem State.leaveLdcal_image (s : State) : (s.leaveLdcal).image = s.image := rfl
@[simp] theorem State.leaveLdcal_history (s : State) : (s.leaveLdcal).history = s.history := rfl

/-! ### present -/

@[simp] theorem State.present_params (s : State) (w : Word) (d : Pattern) : (s.present w d).params = s.params := rfl
@[simp] theorem State.present_eng (s : State) (w : Word) (d : Pattern) : (s.present w d).eng = s.eng := rfl
@[simp] theorem State.present_cw (s : State) (w : Word) (d : Pattern) : (s.present w d).cw = some w := rfl
@[simp] theorem State.present_phase (s : State) (w : Word) (d : Pattern) : (s.present w d).phase = .poll := rfl
@[simp] theorem State.present_din (s : State) (w : Word) (d : Pattern) : (s.present w d).din = s.params.fmt.low d := rfl
@[simp] theorem State.present_responses (s : State) (w : Word) (d : Pattern) : (s.present w d).responses = s.responses := rfl
@[simp] theorem State.present_rst (s : State) (w : Word) (d : Pattern) : (s.present w d).rst = s.rst := rfl
@[simp] theorem State.present_pending (s : State) (w : Word) (d : Pattern) : (s.present w d).pending = s.pending := rfl
@[simp] theorem State.present_hostP (s : State) (w : Word) (d : Pattern) : (s.present w d).hostP = s.hostP := rfl
@[simp] theorem State.present_hostT (s : State) (w : Word) (d : Pattern) : (s.present w d).hostT = s.hostT := rfl
@[simp] theorem State.present_hostLog (s : State) (w : Word) (d : Pattern) : (s.present w d).hostLog = s.hostLog := rfl
@[simp] theorem State.present_script (s : State) (w : Word) (d : Pattern) : (s.present w d).script = s.script := rfl
@[simp] theorem State.present_image (s : State) (w : Word) (d : Pattern) : (s.present w d).image = s.image := rfl
@[simp] theorem State.present_history (s : State) (w : Word) (d : Pattern) : (s.present w d).history = s.history := rfl

/-! ### afterTransfer -/

@[simp] theorem State.afterTransfer_params (s : State) (out : List Byte) : (s.afterTransfer out).params = s.params := rfl
@[simp] theorem State.afterTransfer_eng (s : State) (out : List Byte) : (s.afterTransfer out).eng = s.eng := rfl
@[simp] theorem State.afterTransfer_cw (s : State) (out : List Byte) : (s.afterTransfer out).cw = s.cw := rfl
@[simp] theorem State.afterTransfer_phase (s : State) (out : List Byte) : (s.afterTransfer out).phase = s.phase := rfl
@[simp] theorem State.afterTransfer_din (s : State) (out : List Byte) : (s.afterTransfer out).din = s.din := rfl
@[simp] theorem State.afterTransfer_responses (s : State) (out : List Byte) : (s.afterTransfer out).responses = s.responses := rfl
@[simp] theorem State.afterTransfer_rst (s : State) (out : List Byte) : (s.afterTransfer out).rst = s.rst := rfl
@[simp] theorem State.afterTransfer_pending (s : State) (out : List Byte) : (s.afterTransfer out).pending = s.pending := rfl
@[simp] theorem State.afterTransfer_hostP (s : State) (out : List Byte) : (s.afterTransfer out).hostP = s.hostP := rfl
@[simp] theorem State.afterTransfer_hostT (s : State) (out : List Byte) : (s.afterTransfer out).hostT = s.hostT := rfl
@[simp] theorem State.afterTransfer_hostLog (s : State) (out : List Byte) : (s.afterTransfer out).hostLog = s.hostLog := rfl
@[simp] theorem State.afterTransfer_script (s : State) (out : List Byte) : (s.afterTransfer out).script = s.script.tail := rfl
@[simp] theorem State.afterTransfer_image (s : State) (out : List Byte) : (s.afterTransfer out).image = s.image := rfl
@[simp] theorem State.afterTransfer_history (s : State) (out : List Byte) : (s.afterTransfer out).history = s.history ++ [.transfer out (s.answer out)] := rfl

/-! ### afterRead -/

@[simp] theorem State.afterRead_params (s : State) (a : BitVec 7) (n : Nat) : (s.afterRead a n).params = s.params := rfl
@[simp] theorem State.afterRead_eng (s : State) (a : BitVec 7) (n : Nat) : (s.afterRead a n).eng = s.eng := rfl
@[simp] theorem State.afterRead_cw (s : State) (a : BitVec 7) (n : Nat) : (s.afterRead a n).cw = s.cw := rfl
@[simp] theorem State.afterRead_phase (s : State) (a : BitVec 7) (n : Nat) : (s.afterRead a n).phase = s.phase := rfl
@[simp] theorem State.afterRead_din (s : State) (a : BitVec 7) (n : Nat) : (s.afterRead a n).din = s.din := rfl
@[simp] theorem State.afterRead_responses (s : State) (a : BitVec 7) (n : Nat) : (s.afterRead a n).responses = s.responses := rfl
@[simp] theorem State.afterRead_rst (s : State) (a : BitVec 7) (n : Nat) : (s.afterRead a n).rst = s.rst := rfl
@[simp] theorem State.afterRead_pending (s : State) (a : BitVec 7) (n : Nat) : (s.afterRead a n).pending = s.pending := rfl
@[simp] theorem State.afterRead_hostP (s : State) (a : BitVec 7) (n : Nat) : (s.afterRead a n).hostP = s.hostP := rfl
@[simp] theorem State.afterRead_hostT (s : State) (a : BitVec 7) (n : Nat) : (s.afterRead a n).hostT = s.hostT := rfl
@[simp] theorem State.afterRead_hostLog (s : State) (a : BitVec 7) (n : Nat) : (s.afterRead a n).hostLog = s.hostLog := rfl
@[simp] theorem State.afterRead_script (s : State) (a : BitVec 7) (n : Nat) : (s.afterRead a n).script = s.script.tail := rfl
@[simp] theorem State.afterRead_image (s : State) (a : BitVec 7) (n : Nat) : (s.afterRead a n).image = s.image := rfl
@[simp] theorem State.afterRead_history (s : State) (a : BitVec 7) (n : Nat) : (s.afterRead a n).history = s.history ++ [.transfer (readFrame a n) (s.answer (readFrame a n))] := rfl

/-! ### afterWrite -/

@[simp] theorem State.afterWrite_params (s : State) (a : BitVec 7) (v : Byte) : (s.afterWrite a v).params = s.params := rfl
@[simp] theorem State.afterWrite_eng (s : State) (a : BitVec 7) (v : Byte) : (s.afterWrite a v).eng = s.eng := rfl
@[simp] theorem State.afterWrite_cw (s : State) (a : BitVec 7) (v : Byte) : (s.afterWrite a v).cw = s.cw := rfl
@[simp] theorem State.afterWrite_phase (s : State) (a : BitVec 7) (v : Byte) : (s.afterWrite a v).phase = s.phase := rfl
@[simp] theorem State.afterWrite_din (s : State) (a : BitVec 7) (v : Byte) : (s.afterWrite a v).din = s.din := rfl
@[simp] theorem State.afterWrite_responses (s : State) (a : BitVec 7) (v : Byte) : (s.afterWrite a v).responses = s.responses := rfl
@[simp] theorem State.afterWrite_rst (s : State) (a : BitVec 7) (v : Byte) : (s.afterWrite a v).rst = s.rst := rfl
@[simp] theorem State.afterWrite_pending (s : State) (a : BitVec 7) (v : Byte) : (s.afterWrite a v).pending = s.pending := rfl
@[simp] theorem State.afterWrite_hostP (s : State) (a : BitVec 7) (v : Byte) : (s.afterWrite a v).hostP = s.hostP := rfl
@[simp] theorem State.afterWrite_hostT (s : State) (a : BitVec 7) (v : Byte) : (s.afterWrite a v).hostT = s.hostT := rfl
@[simp] theorem State.afterWrite_hostLog (s : State) (a : BitVec 7) (v : Byte) : (s.afterWrite a v).hostLog = s.hostLog := rfl
@[simp] theorem State.afterWrite_script (s : State) (a : BitVec 7) (v : Byte) : (s.afterWrite a v).script = s.script.tail := rfl
@[simp] theorem State.afterWrite_image (s : State) (a : BitVec 7) (v : Byte) : (s.afterWrite a v).image = s.image := rfl
@[simp] theorem State.afterWrite_history (s : State) (a : BitVec 7) (v : Byte) : (s.afterWrite a v).history = s.history ++ [.transfer (writeFrame a v) (s.answer (writeFrame a v))] := rfl

/-! ### sleep -/

@[simp] theorem State.sleep_params (s : State) (ms : Nat) : (s.sleep ms).params = s.params := rfl
@[simp] theorem State.sleep_eng (s : State) (ms : Nat) : (s.sleep ms).eng = s.eng := rfl
@[simp] theorem State.sleep_cw (s : State) (ms : Nat) : (s.sleep ms).cw = s.cw := rfl
@[simp] theorem State.sleep_phase (s : State) (ms : Nat) : (s.sleep ms).phase = s.phase := rfl
@[simp] theorem State.sleep_din (s : State) (ms : Nat) : (s.sleep ms).din = s.din := rfl
@[simp] theorem State.sleep_responses (s : State) (ms : Nat) : (s.sleep ms).responses = s.responses := rfl
@[simp] theorem State.sleep_rst (s : State) (ms : Nat) : (s.sleep ms).rst = s.rst := rfl
@[simp] theorem State.sleep_pending (s : State) (ms : Nat) : (s.sleep ms).pending = s.pending := rfl
@[simp] theorem State.sleep_hostP (s : State) (ms : Nat) : (s.sleep ms).hostP = s.hostP := rfl
@[simp] theorem State.sleep_hostT (s : State) (ms : Nat) : (s.sleep ms).hostT = s.hostT := rfl
@[simp] theorem State.sleep_hostLog (s : State) (ms : Nat) : (s.sleep ms).hostLog = s.hostLog := rfl
@[simp] theorem State.sleep_script (s : State) (ms : Nat) : (s.sleep ms).script = s.script := rfl
@[simp] theorem State.sleep_image (s : State) (ms : Nat) : (s.sleep ms).image = s.image := rfl
@[simp] theorem State.sleep_history (s : State) (ms : Nat) : (s.sleep ms).history = s.history ++ [.sleep ms] := rfl

/-! ### tickRst -/

@[simp] theorem State.tickRst_params (s : State) : (s.tickRst).params = s.params := rfl
@[simp] theorem State.tickRst_eng (s : State) : (s.tickRst).eng = s.eng := rfl
@[simp] theorem State.tickRst_cw (s : State) : (s.tickRst).cw = s.cw := rfl
@[simp] theorem State.tickRst_phase (s : State) : (s.tickRst).phase = s.phase := rfl
@[simp] theorem State.tickRst_din (s : State) : (s.tickRst).din = s.din := rfl
@[simp] theorem State.tickRst_responses (s : State) : (s.tickRst).responses = s.responses := rfl
@[simp] theorem State.tickRst_rst (s : State) : (s.tickRst).rst = s.rst.tail := rfl
@[simp] theorem State.tickRst_pending (s : State) : (s.tickRst).pending = s.pending := rfl
@[simp] theorem State.tickRst_hostP (s : State) : (s.tickRst).hostP = s.hostP := rfl
@[simp] theorem State.tickRst_hostT (s : State) : (s.tickRst).hostT = s.hostT := rfl
@[simp] theorem State.tickRst_hostLog (s : State) : (s.tickRst).hostLog = s.hostLog := rfl
@[simp] theorem State.tickRst_script (s : State) : (s.tickRst).script = s.script := rfl
@[simp] theorem State.tickRst_image (s : State) : (s.tickRst).image = s.image := rfl
@[simp] theorem State.tickRst_history (s : State) : (s.tickRst).history = s.history := rfl

/-! ### applyRst -/

@[simp] theorem State.applyRst_params (s : State) : (s.applyRst).params = s.params := rfl
@[simp] theorem State.applyRst_eng (s : State) : (s.applyRst).eng = Engine.reset s.params.fmt := rfl
@[simp] theorem State.applyRst_cw (s : State) : (s.applyRst).cw = none := rfl
@[simp] theorem State.applyRst_phase (s : State) : (s.applyRst).phase = .poll := rfl
@[simp] theorem State.applyRst_din (s : State) : (s.applyRst).din = s.din := rfl
@[simp] theorem State.applyRst_responses (s : State) : (s.applyRst).responses = [] := rfl
@[simp] theorem State.applyRst_rst (s : State) : (s.applyRst).rst = s.rst := rfl
@[simp] theorem State.applyRst_pending (s : State) : (s.applyRst).pending = s.pending := rfl
@[simp] theorem State.applyRst_hostP (s : State) : (s.applyRst).hostP = s.hostP := rfl
@[simp] theorem State.applyRst_hostT (s : State) : (s.applyRst).hostT = s.hostT := rfl
@[simp] theorem State.applyRst_hostLog (s : State) : (s.applyRst).hostLog = s.hostLog := rfl
@[simp] theorem State.applyRst_script (s : State) : (s.applyRst).script = s.script := rfl
@[simp] theorem State.applyRst_image (s : State) : (s.applyRst).image = s.image := rfl
@[simp] theorem State.applyRst_history (s : State) : (s.applyRst).history = s.history ++ s.cutEvents := rfl

/-! ### logHost -/

@[simp] theorem State.logHost_params (s : State) (r : HostResult) : (s.logHost r).params = s.params := rfl
@[simp] theorem State.logHost_eng (s : State) (r : HostResult) : (s.logHost r).eng = s.eng := rfl
@[simp] theorem State.logHost_cw (s : State) (r : HostResult) : (s.logHost r).cw = s.cw := rfl
@[simp] theorem State.logHost_phase (s : State) (r : HostResult) : (s.logHost r).phase = s.phase := rfl
@[simp] theorem State.logHost_din (s : State) (r : HostResult) : (s.logHost r).din = s.din := rfl
@[simp] theorem State.logHost_responses (s : State) (r : HostResult) : (s.logHost r).responses = s.responses := rfl
@[simp] theorem State.logHost_rst (s : State) (r : HostResult) : (s.logHost r).rst = s.rst := rfl
@[simp] theorem State.logHost_pending (s : State) (r : HostResult) : (s.logHost r).pending = s.pending := rfl
@[simp] theorem State.logHost_hostP (s : State) (r : HostResult) : (s.logHost r).hostP = s.hostP := rfl
@[simp] theorem State.logHost_hostT (s : State) (r : HostResult) : (s.logHost r).hostT = s.hostT := rfl
@[simp] theorem State.logHost_hostLog (s : State) (r : HostResult) : (s.logHost r).hostLog = s.hostLog ++ [r] := rfl
@[simp] theorem State.logHost_script (s : State) (r : HostResult) : (s.logHost r).script = s.script := rfl
@[simp] theorem State.logHost_image (s : State) (r : HostResult) : (s.logHost r).image = s.image := rfl
@[simp] theorem State.logHost_history (s : State) (r : HostResult) : (s.logHost r).history = s.history := rfl

/-! ### queue -/

@[simp] theorem State.queue_params (s : State) (as : List HostAction) : (s.queue as).params = s.params := rfl
@[simp] theorem State.queue_eng (s : State) (as : List HostAction) : (s.queue as).eng = s.eng := rfl
@[simp] theorem State.queue_cw (s : State) (as : List HostAction) : (s.queue as).cw = s.cw := rfl
@[simp] theorem State.queue_phase (s : State) (as : List HostAction) : (s.queue as).phase = s.phase := rfl
@[simp] theorem State.queue_din (s : State) (as : List HostAction) : (s.queue as).din = s.din := rfl
@[simp] theorem State.queue_responses (s : State) (as : List HostAction) : (s.queue as).responses = s.responses := rfl
@[simp] theorem State.queue_rst (s : State) (as : List HostAction) : (s.queue as).rst = s.rst := rfl
@[simp] theorem State.queue_pending (s : State) (as : List HostAction) : (s.queue as).pending = as ++ s.pending := rfl
@[simp] theorem State.queue_hostP (s : State) (as : List HostAction) : (s.queue as).hostP = s.hostP := rfl
@[simp] theorem State.queue_hostT (s : State) (as : List HostAction) : (s.queue as).hostT = s.hostT := rfl
@[simp] theorem State.queue_hostLog (s : State) (as : List HostAction) : (s.queue as).hostLog = s.hostLog := rfl
@[simp] theorem State.queue_script (s : State) (as : List HostAction) : (s.queue as).script = s.script := rfl
@[simp] theorem State.queue_image (s : State) (as : List HostAction) : (s.queue as).image = s.image := rfl
@[simp] theorem State.queue_history (s : State) (as : List HostAction) : (s.queue as).history = s.history := rfl

/-! ### Register updates -/

@[simp] theorem Engine.setRaw_calv (e : Engine) (ch : Channel) (v : BitVec 24) : (e.setRaw ch v).calv = e.calv := by
  cases ch <;> rfl
@[simp] theorem Engine.setRaw_coefs (e : Engine) (ch : Channel) (v : BitVec 24) : (e.setRaw ch v).coefs = e.coefs := by
  cases ch <;> rfl
@[simp] theorem Engine.setRaw_osP (e : Engine) (ch : Channel) (v : BitVec 24) : (e.setRaw ch v).osP = e.osP := by
  cases ch <;> rfl
@[simp] theorem Engine.setRaw_osT (e : Engine) (ch : Channel) (v : BitVec 24) : (e.setRaw ch v).osT = e.osT := by
  cases ch <;> rfl
@[simp] theorem Engine.setRaw_fT (e : Engine) (ch : Channel) (v : BitVec 24) : (e.setRaw ch v).fT = e.fT := by
  cases ch <;> rfl
@[simp] theorem Engine.setRaw_fP (e : Engine) (ch : Channel) (v : BitVec 24) : (e.setRaw ch v).fP = e.fP := by
  cases ch <;> rfl
@[simp] theorem Engine.setRaw_fA (e : Engine) (ch : Channel) (v : BitVec 24) : (e.setRaw ch v).fA = e.fA := by
  cases ch <;> rfl
@[simp] theorem Engine.setRaw_fS (e : Engine) (ch : Channel) (v : BitVec 24) : (e.setRaw ch v).fS = e.fS := by
  cases ch <;> rfl
@[simp] theorem Engine.setRaw_fH (e : Engine) (ch : Channel) (v : BitVec 24) : (e.setRaw ch v).fH = e.fH := by
  cases ch <;> rfl
@[simp] theorem Engine.setRaw_err (e : Engine) (ch : Channel) (v : BitVec 24) : (e.setRaw ch v).err = e.err := by
  cases ch <;> rfl
@[simp] theorem Engine.setOs_calv (e : Engine) (ch : Channel) (l : BitVec 3) : (e.setOs ch l).calv = e.calv := by
  cases ch <;> rfl
@[simp] theorem Engine.setOs_coefs (e : Engine) (ch : Channel) (l : BitVec 3) : (e.setOs ch l).coefs = e.coefs := by
  cases ch <;> rfl
@[simp] theorem Engine.setOs_rawP (e : Engine) (ch : Channel) (l : BitVec 3) : (e.setOs ch l).rawP = e.rawP := by
  cases ch <;> rfl
@[simp] theorem Engine.setOs_rawT (e : Engine) (ch : Channel) (l : BitVec 3) : (e.setOs ch l).rawT = e.rawT := by
  cases ch <;> rfl
@[simp] theorem Engine.setOs_fT (e : Engine) (ch : Channel) (l : BitVec 3) : (e.setOs ch l).fT = e.fT := by
  cases ch <;> rfl
@[simp] theorem Engine.setOs_fP (e : Engine) (ch : Channel) (l : BitVec 3) : (e.setOs ch l).fP = e.fP := by
  cases ch <;> rfl
@[simp] theorem Engine.setOs_fA (e : Engine) (ch : Channel) (l : BitVec 3) : (e.setOs ch l).fA = e.fA := by
  cases ch <;> rfl
@[simp] theorem Engine.setOs_fS (e : Engine) (ch : Channel) (l : BitVec 3) : (e.setOs ch l).fS = e.fS := by
  cases ch <;> rfl
@[simp] theorem Engine.setOs_fH (e : Engine) (ch : Channel) (l : BitVec 3) : (e.setOs ch l).fH = e.fH := by
  cases ch <;> rfl
@[simp] theorem Engine.setOs_err (e : Engine) (ch : Channel) (l : BitVec 3) : (e.setOs ch l).err = e.err := by
  cases ch <;> rfl
@[simp] theorem Engine.setFreg_calv (e : Engine) (r : FReg) (v : Pattern) : (e.setFreg r v).calv = e.calv := by
  cases r <;> rfl
@[simp] theorem Engine.setFreg_coefs (e : Engine) (r : FReg) (v : Pattern) : (e.setFreg r v).coefs = e.coefs := by
  cases r <;> rfl
@[simp] theorem Engine.setFreg_rawP (e : Engine) (r : FReg) (v : Pattern) : (e.setFreg r v).rawP = e.rawP := by
  cases r <;> rfl
@[simp] theorem Engine.setFreg_rawT (e : Engine) (r : FReg) (v : Pattern) : (e.setFreg r v).rawT = e.rawT := by
  cases r <;> rfl
@[simp] theorem Engine.setFreg_osP (e : Engine) (r : FReg) (v : Pattern) : (e.setFreg r v).osP = e.osP := by
  cases r <;> rfl
@[simp] theorem Engine.setFreg_osT (e : Engine) (r : FReg) (v : Pattern) : (e.setFreg r v).osT = e.osT := by
  cases r <;> rfl
@[simp] theorem Engine.setFreg_err (e : Engine) (r : FReg) (v : Pattern) : (e.setFreg r v).err = e.err := by
  cases r <;> rfl
@[simp] theorem Engine.setCoefs_calv (e : Engine) (c : Coefs) : (e.setCoefs c).calv = true := rfl
@[simp] theorem Engine.setCoefs_coefs (e : Engine) (c : Coefs) : (e.setCoefs c).coefs = c := rfl
@[simp] theorem Engine.setCoefs_rawP (e : Engine) (c : Coefs) : (e.setCoefs c).rawP = e.rawP := rfl
@[simp] theorem Engine.setCoefs_rawT (e : Engine) (c : Coefs) : (e.setCoefs c).rawT = e.rawT := rfl
@[simp] theorem Engine.setCoefs_osP (e : Engine) (c : Coefs) : (e.setCoefs c).osP = e.osP := rfl
@[simp] theorem Engine.setCoefs_osT (e : Engine) (c : Coefs) : (e.setCoefs c).osT = e.osT := rfl
@[simp] theorem Engine.setCoefs_fT (e : Engine) (c : Coefs) : (e.setCoefs c).fT = e.fT := rfl
@[simp] theorem Engine.setCoefs_fP (e : Engine) (c : Coefs) : (e.setCoefs c).fP = e.fP := rfl
@[simp] theorem Engine.setCoefs_fA (e : Engine) (c : Coefs) : (e.setCoefs c).fA = e.fA := rfl
@[simp] theorem Engine.setCoefs_fS (e : Engine) (c : Coefs) : (e.setCoefs c).fS = e.fS := rfl
@[simp] theorem Engine.setCoefs_fH (e : Engine) (c : Coefs) : (e.setCoefs c).fH = e.fH := rfl
@[simp] theorem Engine.setCoefs_err (e : Engine) (c : Coefs) : (e.setCoefs c).err = e.err := rfl

/-- A raw register after a write: the written one valid with the value, the other as before. -/
theorem Engine.raw_setRaw (e : Engine) (ch ch' : Channel) (v : BitVec 24) :
    (e.setRaw ch v).raw ch' = if ch' = ch then ⟨true, v⟩ else e.raw ch' := by
  cases ch <;> cases ch' <;> rfl

/-- A level register after a write. -/
theorem Engine.os_setOs (e : Engine) (ch ch' : Channel) (l : BitVec 3) :
    (e.setOs ch l).os ch' = if ch' = ch then ⟨true, l⟩ else e.os ch' := by
  cases ch <;> cases ch' <;> rfl

/-- A floating register after a write. -/
theorem Engine.freg_setFreg (e : Engine) (r r' : FReg) (v : Pattern) :
    (e.setFreg r v).freg r' = if r' = r then ⟨true, v⟩ else e.freg r' := by
  cases r <;> cases r' <;> rfl

@[simp] theorem Engine.freg_setRaw (e : Engine) (ch : Channel) (v : BitVec 24) (r : FReg) :
    (e.setRaw ch v).freg r = e.freg r := by cases ch <;> cases r <;> rfl
@[simp] theorem Engine.freg_setOs (e : Engine) (ch : Channel) (l : BitVec 3) (r : FReg) :
    (e.setOs ch l).freg r = e.freg r := by cases ch <;> cases r <;> rfl
@[simp] theorem Engine.freg_setCoefs (e : Engine) (c : Coefs) (r : FReg) :
    (e.setCoefs c).freg r = e.freg r := by cases r <;> rfl
@[simp] theorem Engine.raw_setOs (e : Engine) (ch ch' : Channel) (l : BitVec 3) :
    (e.setOs ch l).raw ch' = e.raw ch' := by cases ch <;> cases ch' <;> rfl
@[simp] theorem Engine.os_setRaw (e : Engine) (ch ch' : Channel) (v : BitVec 24) :
    (e.setRaw ch v).os ch' = e.os ch' := by cases ch <;> cases ch' <;> rfl
@[simp] theorem Engine.raw_setFreg (e : Engine) (r : FReg) (ch : Channel) (v : Pattern) :
    (e.setFreg r v).raw ch = e.raw ch := by cases ch <;> cases r <;> rfl
@[simp] theorem Engine.os_setFreg (e : Engine) (r : FReg) (ch : Channel) (v : Pattern) :
    (e.setFreg r v).os ch = e.os ch := by cases ch <;> cases r <;> rfl
@[simp] theorem Engine.raw_setCoefs (e : Engine) (c : Coefs) (ch : Channel) :
    (e.setCoefs c).raw ch = e.raw ch := by cases ch <;> rfl
@[simp] theorem Engine.os_setCoefs (e : Engine) (c : Coefs) (ch : Channel) :
    (e.setCoefs c).os ch = e.os ch := by cases ch <;> rfl

end Sys2Proof.Machine
end

