-- ==== Sys2Proof/Laws/Ops.lean ====
section
/-! SUPPORT. For each shared operation, one lemma that says everything it can do; and what the step can
do. -/

namespace Sys2Proof.Machine

/-! ### Errors -/

@[simp] theorem Status.first_ok (e : Status) : Status.first .ok e = e := rfl

@[simp] theorem Status.first_of_ne_ok (err e : Status) (h : err ≠ .ok) : err.first e = err := by
  cases err <;> first | rfl | exact absurd rfl h

/-- The code that `ERR` takes: the first one since reset. -/
theorem Status.first_eq (err e : Status) : err.first e = if err = .ok then e else err := by
  cases err <;> simp [Status.first]

@[simp] theorem Status.first_ok_right (err : Status) : err.first .ok = err := by cases err <;> rfl

theorem firstError_append (rs : List Response) (r : Response) :
    firstError (rs ++ [r]) = (firstError rs).first r.st := by
  simp [firstError]

/-! ### The bus -/

/-- The oracle's answer depends on the script, the image and the history alone. -/
theorem State.answer_congr (s t : State) (h1 : t.script = s.script) (h2 : t.image = s.image)
    (h3 : t.history = s.history) (out : List Byte) : t.answer out = s.answer out := by
  have hb : t.incomingByte out = s.incomingByte out := by
    funext i; simp only [State.incomingByte, h1, h2, h3]
  have hf : t.transferFails out = s.transferFails out := by
    simp only [State.transferFails, h1, h2, h3]
  simp only [State.answer, hb, hf]

theorem State.readData_congr (s t : State) (h1 : t.script = s.script) (h2 : t.image = s.image)
    (h3 : t.history = s.history) (a : BitVec 7) (n : Nat) : t.readData a n = s.readData a n := by
  simp only [State.readData, State.answer_congr s t h1 h2 h3]

theorem State.writeOk_congr (s t : State) (h1 : t.script = s.script) (h2 : t.image = s.image)
    (h3 : t.history = s.history) (a : BitVec 7) (v : Byte) : t.writeOk a v = s.writeOk a v := by
  simp only [State.writeOk, State.answer_congr s t h1 h2 h3]

/-- A transfer returns a frame as long as the one sent (20_memory R52). -/
theorem State.answer_length (s : State) (out f : List Byte) (h : s.answer out = some f) :
    f.length = out.length := by
  unfold State.answer at h
  split at h
  · cases h
  · cases h; simp

@[simp] theorem readFrame_length (a : BitVec 7) (n : Nat) : (readFrame a n).length = n + 1 := by
  simp [readFrame]

/-- A read of `n` bytes returns `n` bytes (20_memory R53). -/
theorem State.readData_length (s : State) (a : BitVec 7) (n : Nat) (b : List Byte)
    (h : s.readData a n = some b) : b.length = n := by
  unfold State.readData at h
  cases hf : s.answer (readFrame a n) with
  | none => simp [hf] at h
  | some f =>
    have := s.answer_length _ f hf
    simp [hf] at h
    subst h
    simp [this]

/-- A command that does not use the bus leaves nothing to cut (20_memory R51). -/
theorem cutBy_of_no_bus (p : LdcalPhase) (i : Instr) (h : usesBus i = false) : cutBy p i = [] := by
  cases i <;> first | rfl | cases h

/-- Every read the engine makes lies inside the sensor space (20_memory R53). -/
theorem engine_reads_inside : measStatus.toNat + 1 ≤ 128 ∧ calBlock.toNat + 18 ≤ 128
    ∧ (dataAddr .pressure).toNat + 3 ≤ 128 ∧ (dataAddr .temperature).toNat + 3 ≤ 128 := by decide

/-! ### The commands -/

/-- All a raw load can do: fail and change nothing but `ERR`, or write its register. -/
theorem loadRaw_cases (ch : Channel) (s : State) :
    (s.readData (dataAddr ch) 3 = none ∧
      loadRaw ch s = (s.afterRead (dataAddr ch) 3).raise .busError)
    ∨ ∃ b, s.readData (dataAddr ch) 3 = some b ∧
      loadRaw ch s = State.respond { s.afterRead (dataAddr ch) 3 with
        eng := s.eng.setRaw ch (BitVec.ofInt 24 (assemble24 b)) } 0#64 := by
  unfold loadRaw
  split
  · rename_i h; exact .inl ⟨h, rfl⟩
  · rename_i b h; exact .inr ⟨b, h, rfl⟩

/-- All the block read of `LDCAL` can do: fail and change nothing but `ERR`, or write all nine. -/
theorem loadBlock_cases (s : State) :
    (s.readData calBlock 18 = none ∧ loadBlock s = (s.afterRead calBlock 18).leaveLdcal.raise .busError)
    ∨ ∃ b, s.readData calBlock 18 = some b ∧
      loadBlock s = State.respond { (s.afterRead calBlock 18).leaveLdcal with
        eng := s.eng.setCoefs (unpackCal b) } 0#64 := by
  unfold loadBlock
  split
  · rename_i h; exact .inl ⟨h, rfl⟩
  · rename_i b h; exact .inr ⟨b, h, rfl⟩

/-- All a status poll of `LDCAL` can do. -/
theorem pollCoefReady_cases (s : State) :
    (s.readData measStatus 1 = none ∧
      pollCoefReady s = (s.afterRead measStatus 1).leaveLdcal.raise .busError)
    ∨ ∃ b, s.readData measStatus 1 = some b ∧ pollCoefReady s
        = (s.afterRead measStatus 1).stillExecuting (if statusBit b 7 then .block else .sleep) := by
  unfold pollCoefReady
  split
  · rename_i h; exact .inl ⟨h, rfl⟩
  · rename_i b h; exact .inr ⟨b, h, rfl⟩

/-- All one step of `LDCAL` can do. -/
theorem ldcalStep_cases (s : State) :
    (s.phase = .poll ∧ ldcalStep s = pollCoefReady s)
    ∨ (s.phase = .sleep ∧ ldcalStep s = (s.sleep 20).stillExecuting .poll)
    ∨ (s.phase = .block ∧ ldcalStep s = loadBlock s) := by
  unfold ldcalStep
  cases h : s.phase <;> simp

/-- All that can come of an altitude command's checked result. -/
theorem finishAltitude_cases (r : FReg) (x : Option FloatVal) (s : State) :
    (x = none ∧ finishAltitude r x s = s.raise .domainError)
    ∨ ∃ v, x = some v ∧ finishAltitude r x s
        = State.respond { s with eng := s.eng.setFreg r (v.toBits s.params.fmt) } 0#64 := by
  cases x with
  | none => exact .inl ⟨rfl, rfl⟩
  | some v => exact .inr ⟨v, rfl, rfl⟩

/-- What `ALT` writes is the value of R157, and it and its operands are finite. -/
theorem altChecked_some (fmt : Fmt) (p s v : FloatVal) (h : altChecked fmt p s = some v) :
    v = altValue fmt p s ∧ v.finite = true ∧ p.finite = true ∧ s.finite = true
      ∧ (altBase fmt p s).ltZero = false := by
  unfold altChecked at h
  split at h <;> try cases h
  split at h <;> try cases h
  split at h <;> try cases h
  split at h <;> try cases h
  simp_all

/-- What `SEALVL` writes is the value of R159, and it and its operands are finite. -/
theorem seaChecked_some (fmt : Fmt) (p h' v : FloatVal) (h : seaChecked fmt p h' = some v) :
    v = seaValue fmt p h' ∧ v.finite = true ∧ p.finite = true ∧ h'.finite = true
      ∧ (seaBase fmt h').ltZero = false := by
  unfold seaChecked at h
  split at h <;> try cases h
  split at h <;> try cases h
  split at h <;> try cases h
  split at h <;> try cases h
  simp_all

/-! ### The host's duties -/

/-- All a read-modify-write can do: `BusError` at the read or at the write, or both transactions and
what follows. -/
theorem hostModify_cases (addr : BitVec 7) (f : Byte → Byte) (after : State → State) (s : State) :
    (s.readData addr 1 = none ∧ hostModify addr f after s = (s.afterRead addr 1).logHost .busError)
    ∨ ∃ b, s.readData addr 1 = some b ∧
      (((s.afterRead addr 1).writeOk addr (f (b.headD 0#8)) = false ∧ hostModify addr f after s
          = ((s.afterRead addr 1).afterWrite addr (f (b.headD 0#8))).logHost .busError)
      ∨ ((s.afterRead addr 1).writeOk addr (f (b.headD 0#8)) = true ∧ hostModify addr f after s
          = after ((s.afterRead addr 1).afterWrite addr (f (b.headD 0#8))))) := by
  unfold hostModify
  split
  · rename_i h; exact .inl ⟨h, rfl⟩
  · rename_i b h
    refine .inr ⟨b, h, ?_⟩
    simp only
    split
    · rename_i hw; exact .inr ⟨hw, rfl⟩
    · rename_i hw; exact .inl ⟨by simpa using hw, rfl⟩

/-- All one round of a readiness wait can do: `BusError`, the end with what follows, or a sleep. -/
theorem hostWait_cases (mask : Byte) (ms : Nat) (a : HostAction) (after : State → State) (s : State) :
    (s.readData 0x08#7 1 = none ∧
      hostWait mask ms a after s = (s.afterRead 0x08#7 1).logHost .busError)
    ∨ ∃ b, s.readData 0x08#7 1 = some b ∧
      ((b.headD 0#8 &&& mask = mask ∧
        hostWait mask ms a after s = after ((s.afterRead 0x08#7 1).logHost .ok))
      ∨ (b.headD 0#8 &&& mask ≠ mask ∧
        hostWait mask ms a after s = ((s.afterRead 0x08#7 1).sleep ms).queue [a])) := by
  unfold hostWait
  split
  · rename_i h; exact .inl ⟨h, rfl⟩
  · rename_i b h
    refine .inr ⟨b, h, ?_⟩
    split
    · rename_i hb; exact .inl ⟨hb, rfl⟩
    · rename_i hb; exact .inr ⟨hb, rfl⟩

/-! ### The step -/

/-- All a step that answers a next state can have done: reset, run a command, reject a word, or let the
host move. -/
theorem step_cases (s t : State) (h : step s = .next t) :
    (s.rstAsserted = true ∧ t = s.tickRst.applyRst)
    ∨ (s.rstAsserted = false ∧ ∃ w i, s.cw = some w ∧ decode w = .ok i ∧ exec i s.tickRst = .next t)
    ∨ (s.rstAsserted = false ∧ ∃ w e, s.cw = some w ∧ decode w = .error e ∧
        t = s.tickRst.raise .illegalCommand)
    ∨ (s.rstAsserted = false ∧ s.cw = none ∧ hostMove s.tickRst = .next t) := by
  unfold step at h
  split at h
  · rename_i hr; cases h; exact .inl ⟨hr, rfl⟩
  · rename_i hr
    have hr : s.rstAsserted = false := by simpa using hr
    split at h
    · rename_i w hw
      split at h
      · rename_i i hi; exact .inr (.inl ⟨hr, w, i, hw, hi, h⟩)
      · rename_i e he; cases h; exact .inr (.inr (.inl ⟨hr, w, e, hw, he, rfl⟩))
    · rename_i hc; exact .inr (.inr (.inr ⟨hr, hc, h⟩))

end Sys2Proof.Machine
end

