-- ==== Sys2Proof/Laws/PerInstr.lean ====
section
/-! SUPPORT. A family of statements about each command as syntax: a well-formed command's word spells a row
of the opcode map, and that row carries the command's mnemonic (30_encoding R83). -/

namespace Sys2Proof.Laws.SpellsItsRow

/-- The command's word spells a row with its mnemonic. -/
def Statement (i : Instr) : Prop :=
  i.WellFormed → ∃ row ∈ opcodeRows, row.mnemonic = i.mnemonic ∧ row.spells (encode i) = true

/-- Whether a row is spelled, from its mask and its bound on `sel`. -/
theorem spells_of (row : OpcodeRow) (w : Word) (hm : w &&& row.mask = row.pattern)
    (hs : (selOf w).toNat ≤ row.selMax) : row.spells w = true := by
  simp [OpcodeRow.spells, hm, hs]

theorem sel_le (b : BitVec 4) : b.toNat ≤ 15 := by omega

/-- The masked word of three fields. -/
theorem wordOf_and (op sel : BitVec 4) (imm : BitVec 24) (op' sel' : BitVec 4) (imm' : BitVec 24) :
    wordOf op sel imm &&& wordOf op' sel' imm' = wordOf (op &&& op') (sel &&& sel') (imm &&& imm') := by
  ext j hj
  rw [← BitVec.getLsbD_eq_getElem, ← BitVec.getLsbD_eq_getElem, BitVec.getLsbD_and, wordOf_getLsbD,
    wordOf_getLsbD, wordOf_getLsbD]
  split
  · simp
  · split <;> simp

/-- A narrow operand has no bit above its width. -/
theorem setWidth_and_high {n : Nat} (v : BitVec n) (mask : BitVec 24)
    (h : ∀ j, j < n → mask.getLsbD j = false) : v.setWidth 24 &&& mask = 0#24 := by
  ext j hj
  by_cases hn : j < n
  · have := h j hn
    rw [BitVec.getLsbD_eq_getElem hj] at this
    simp [this]
  · simp [BitVec.getLsbD_of_ge v j (by omega)]

theorem sext12 (v : BitVec 12) : Statement (.sext12 v) := fun _ =>
  ⟨⟨"SEXT12", 0x10000000#32, 0xFFFFF000#32, 15⟩, by simp [opcodeRows], rfl,
    spells_of _ _ (by
      change wordOf 1#4 0#4 (v.setWidth 24) &&& wordOf 0xF#4 0xF#4 0xFFF000#24 = _
      rw [wordOf_and, setWidth_and_high v _ (by decide)]; decide) (sel_le _)⟩

theorem sext16 (v : BitVec 16) : Statement (.sext16 v) := fun _ =>
  ⟨⟨"SEXT16", 0x11000000#32, 0xFFFF0000#32, 15⟩, by simp [opcodeRows], rfl,
    spells_of _ _ (by
      change wordOf 1#4 1#4 (v.setWidth 24) &&& wordOf 0xF#4 0xF#4 0xFF0000#24 = _
      rw [wordOf_and, setWidth_and_high v _ (by decide)]; decide) (sel_le _)⟩

theorem sext20 (v : BitVec 20) : Statement (.sext20 v) := fun _ =>
  ⟨⟨"SEXT20", 0x12000000#32, 0xFFF00000#32, 15⟩, by simp [opcodeRows], rfl,
    spells_of _ _ (by
      change wordOf 1#4 2#4 (v.setWidth 24) &&& wordOf 0xF#4 0xF#4 0xF00000#24 = _
      rw [wordOf_and, setWidth_and_high v _ (by decide)]; decide) (sel_le _)⟩

theorem sext24 (v : BitVec 24) : Statement (.sext24 v) := fun _ =>
  ⟨⟨"SEXT24", 0x13000000#32, 0xFF000000#32, 15⟩, by simp [opcodeRows], rfl,
    spells_of _ _ (by
      change wordOf 1#4 3#4 v &&& wordOf 0xF#4 0xF#4 0#24 = _
      rw [wordOf_and, BitVec.and_zero]; decide) (sel_le _)⟩

theorem ldcal : Statement .ldcal := fun _ =>
  ⟨⟨"LDCAL", 0x20000000#32, 0xFFFFFFFF#32, 15⟩, by simp [opcodeRows], rfl, by decide⟩

/-- The three rows whose selector is a whole index. -/
theorem indexed_spells (name : String) (op k : BitVec 4) (bound : Nat) (h : k.toNat ≤ bound) :
    OpcodeRow.spells ⟨name, wordOf op 0#4 0#24, wordOf 0xF#4 0#4 0xFFFFFF#24, bound⟩
      (wordOf op k 0#24) = true := by
  refine spells_of _ _ ?_ (by simpa using h)
  simp only [wordOf_and, BitVec.and_zero, BitVec.zero_and]
  congr 1
  revert op; decide

theorem rdcoef (k : BitVec 4) : Statement (.rdcoef k) := fun h =>
  ⟨⟨"RDCOEF", 0x30000000#32, 0xF0FFFFFF#32, 8⟩, by simp [opcodeRows], rfl,
    indexed_spells "RDCOEF" 3#4 k 8 (of_decide_eq_true h)⟩

theorem setos (ch : Channel) (level : BitVec 3) : Statement (.setos ch level) := fun _ =>
  ⟨⟨"SETOS", 0x40000000#32, 0xFEFFFFF8#32, 15⟩, by simp [opcodeRows], rfl,
    spells_of _ _ (by
      change wordOf 4#4 (selOfChannel ch) (level.setWidth 24) &&& wordOf 0xF#4 0xE#4 0xFFFFF8#24 = _
      rw [wordOf_and, setWidth_and_high level _ (by decide)]; cases ch <;> decide) (sel_le _)⟩

theorem setraw (ch : Channel) (v : BitVec 24) : Statement (.setraw ch v) := fun _ =>
  ⟨⟨"SETRAW", 0x50000000#32, 0xFE000000#32, 15⟩, by simp [opcodeRows], rfl,
    spells_of _ _ (by
      change wordOf 5#4 (selOfChannel ch) v &&& wordOf 0xF#4 0xE#4 0#24 = _
      rw [wordOf_and, BitVec.and_zero]; cases ch <;> decide) (sel_le _)⟩

theorem ldrawp : Statement .ldrawp := fun _ =>
  ⟨⟨"LDRAWP", 0x60000000#32, 0xFFFFFFFF#32, 15⟩, by simp [opcodeRows], rfl, by decide⟩

theorem ldrawt : Statement .ldrawt := fun _ =>
  ⟨⟨"LDRAWT", 0x61000000#32, 0xFFFFFFFF#32, 15⟩, by simp [opcodeRows], rfl, by decide⟩

theorem rdraw (ch : Channel) : Statement (.rdraw ch) := fun _ =>
  ⟨⟨"RDRAW", 0x70000000#32, 0xFEFFFFFF#32, 15⟩, by simp [opcodeRows], rfl, by cases ch <;> decide⟩

theorem compt : Statement .compt := fun _ =>
  ⟨⟨"COMPT", 0x80000000#32, 0xFFFFFFFF#32, 15⟩, by simp [opcodeRows], rfl, by decide⟩

theorem compp : Statement .compp := fun _ =>
  ⟨⟨"COMPP", 0x90000000#32, 0xFFFFFFFF#32, 15⟩, by simp [opcodeRows], rfl, by decide⟩

theorem alt : Statement .alt := fun _ =>
  ⟨⟨"ALT", 0xA0000000#32, 0xFFFFFFFF#32, 15⟩, by simp [opcodeRows], rfl, by decide⟩

theorem sealvl : Statement .sealvl := fun _ =>
  ⟨⟨"SEALVL", 0xB0000000#32, 0xFFFFFFFF#32, 15⟩, by simp [opcodeRows], rfl, by decide⟩

theorem wrf (r : BitVec 4) : Statement (.wrf r) := fun h =>
  ⟨⟨"WRF", 0xC0000000#32, 0xF0FFFFFF#32, 4⟩, by simp [opcodeRows], rfl,
    indexed_spells "WRF" 0xC#4 r 4 (of_decide_eq_true h)⟩

theorem rdf (r : BitVec 4) : Statement (.rdf r) := fun h =>
  ⟨⟨"RDF", 0xD0000000#32, 0xF0FFFFFF#32, 4⟩, by simp [opcodeRows], rfl,
    indexed_spells "RDF" 0xD#4 r 4 (of_decide_eq_true h)⟩

theorem rdstat : Statement .rdstat := fun _ =>
  ⟨⟨"RDSTAT", 0xE0000000#32, 0xFFFFFFFF#32, 15⟩, by simp [opcodeRows], rfl, by decide⟩

end Sys2Proof.Laws.SpellsItsRow
end

