-- ==== Sys2Proof/Machine/Assembler.lean ====
section
/-! DEFINITION. The assembler's notation (30_encoding R87, R88): a line, already cut into its mnemonic
and its operands, to the command word and the data word of exactly one command. -/

namespace Sys2Proof

/-- An operand as it is spelled (R87): a name, a whole number, a decimal literal `±num/den` with a power
of ten below it, or an exact bit pattern `=0x...`. -/
inductive AsmOperand where
  | name (s : String)
  | int (i : Int)
  | dec (neg : Bool) (num den : Nat)
  | bits (p : Pattern)
deriving DecidableEq, Repr

/-- The coefficient names, in the order of their index (10_state R22). -/
def coefNames : List String := ["c0", "c1", "c00", "c10", "c01", "c11", "c20", "c21", "c30"]

/-- The floating register names, in the order of their index (10_state R30). -/
def fregNames : List String := ["T", "P", "A", "S", "H"]

/-- An index "by name or by number". -/
def asmIndex (names : List String) : AsmOperand → Option (BitVec 4)
  | .name s => (names.idxOf? s).map (BitVec.ofNat 4)
  | .int i => if 0 ≤ i ∧ i < names.length then some (BitVec.ofInt 4 i) else none
  | .dec _ _ _ => none
  | .bits _ => none

/-- A channel: `P` or `T`. -/
def asmChannel : AsmOperand → Option Channel
  | .name s => if s = "P" then some .pressure else if s = "T" then some .temperature else none
  | .int _ => none
  | .dec _ _ _ => none
  | .bits _ => none

/-- A whole number of at least `low` that has a pattern of `n` bits. A negative one is encoded as
`v + 2^n`. -/
def asmImm (n : Nat) (low : Int) : AsmOperand → Option (BitVec n)
  | .name _ => none
  | .int i => if low ≤ i ∧ i < 2 ^ n then some (BitVec.ofInt n i) else none
  | .dec _ _ _ => none
  | .bits _ => none

/-- The second operand of `WRF`: a decimal literal `q` gives `fconst(q)`; `=0x...` that exact pattern. -/
def asmData (fmt : Fmt) : AsmOperand → Option Pattern
  | .name _ => none
  | .int i => some ((fconst fmt (decide (i < 0)) i.natAbs 1).toBits fmt)
  | .dec neg num den => some ((fconst fmt neg num den).toBits fmt)
  | .bits p => some (fmt.low p)

/-- The commands with no operand. -/
def asm0 (mn : String) : Option Instr :=
  ([("LDCAL", .ldcal), ("LDRAWP", .ldrawp), ("LDRAWT", .ldrawt), ("COMPT", .compt), ("COMPP", .compp),
    ("ALT", .alt), ("SEALVL", .sealvl), ("RDSTAT", .rdstat)] : List (String × Instr)).lookup mn

/-- `SETOS ch, level` and `SETRAW ch, v`. -/
def asmChannelImm (mn : String) (ch : Channel) (x : AsmOperand) : Option Instr :=
  if mn = "SETOS" then (asmImm 3 0 x).map (.setos ch)
  else if mn = "SETRAW" then (asmImm 24 (-8388608) x).map (.setraw ch)
  else none

/-- The commands with one operand, and the six aliases of R88 (`RDRAWP` and `RDRAWT` have none). -/
def asm1 (mn : String) (x : AsmOperand) : Option Instr :=
  if mn = "SEXT12" then (asmImm 12 0 x).map .sext12
  else if mn = "SEXT16" then (asmImm 16 0 x).map .sext16
  else if mn = "SEXT20" then (asmImm 20 0 x).map .sext20
  else if mn = "SEXT24" then (asmImm 24 0 x).map .sext24
  else if mn = "RDCOEF" then (asmIndex coefNames x).map .rdcoef
  else if mn = "RDRAW" then (asmChannel x).map .rdraw
  else if mn = "RDF" then (asmIndex fregNames x).map .rdf
  else if mn = "SETOSP" then asmChannelImm "SETOS" .pressure x
  else if mn = "SETOST" then asmChannelImm "SETOS" .temperature x
  else if mn = "SETRAWP" then asmChannelImm "SETRAW" .pressure x
  else if mn = "SETRAWT" then asmChannelImm "SETRAW" .temperature x
  else none

/-- One line (R87): the command and its data word, which is 0 for every command but `WRF`. -/
def asmLine (fmt : Fmt) (mn : String) (ops : List AsmOperand) : Option (Instr × Pattern) :=
  match ops with
  | [] =>
    if mn = "RDRAWP" then some (.rdraw .pressure, 0#64)
    else if mn = "RDRAWT" then some (.rdraw .temperature, 0#64)
    else (asm0 mn).map (·, 0#64)
  | [x] => (asm1 mn x).map (·, 0#64)
  | [x, y] =>
    if mn = "WRF" then
      match asmIndex fregNames x, asmData fmt y with
      | some r, some d => some (.wrf r, d)
      | _, _ => none
    else (asmChannel x).bind fun ch => (asmChannelImm mn ch y).map (·, 0#64)
  | _ => none

/-- The command word and the data word a line stands for. -/
def assemble (fmt : Fmt) (mn : String) (ops : List AsmOperand) : Option (Word × Pattern) :=
  (asmLine fmt mn ops).map fun (i, d) => (encode i, d)

end Sys2Proof
end

