-- ==== Sys2Proof/Tests/Slice0.lean ====
section
/-! SUPPORT. Small tests, each with its source in spec/, and for every statement with hypotheses a named
witness that meets them. Expected values come from the spec's examples (95_test_vectors and the rules). -/

open Sys2Proof Sys2Proof.Machine

namespace Sys2Proof.Tests

/-! ### Small states -/

/-- The candidate table T1 (93_implementation_defined G2). -/
def tableT1 : Vector (BitVec 24) 8 :=
  #v[524288#24, 1572864#24, 3670016#24, 7864320#24, 253952#24, 516096#24, 1040384#24, 2088960#24]

/-- The block F1 (95_test_vectors 3.2). -/
def blockF1 : List Byte :=
  [0x0D#8, 0x2E#8, 0xFC#8, 0x13#8, 0xE6#8, 0x3E#8, 0xFE#8, 0x25#8, 0xF7#8, 0x8B#8, 0x04#8, 0xF4#8,
   0xD9#8, 0x77#8, 0x00#8, 0x55#8, 0xF9#8, 0xBD#8]

/-- Every register written: coefficients F1, row A of 95_test_vectors 4.1, P = 101325, S = 1013.25, H = 0. -/
def full (fmt : Fmt) : State where
  params := ⟨fmt, tableT1⟩
  eng := {
    calv := true
    coefs := ⟨210#12, BitVec.ofInt 12 (-260), 81507#20, BitVec.ofInt 20 (-66011),
      BitVec.ofInt 16 (-2165), 1268#16, BitVec.ofInt 16 (-9865), 85#16, BitVec.ofInt 16 (-1603)⟩
    rawP := ⟨true, BitVec.ofInt 24 (-262144)⟩
    rawT := ⟨true, 131072#24⟩
    osP := ⟨true, 0#3⟩
    osT := ⟨true, 0#3⟩
    fT := ⟨true, 0#64⟩
    fP := ⟨true, match fmt with | .binary32 => 0x47C5E680#64 | .binary64 => 0x40F8BCD000000000#64⟩
    fA := ⟨true, 0#64⟩
    fS := ⟨true, match fmt with | .binary32 => 0x447D5000#64 | .binary64 => 0x408FAA0000000000#64⟩
    fH := ⟨true, 0#64⟩
    err := .ok }
  cw := none
  phase := .poll
  din := 0#64
  responses := []
  rst := []
  pending := []
  hostP := ⟨0#3, 0#3⟩
  hostT := ⟨0#3, 0#3⟩
  hostLog := []
  script := []
  image := []
  history := []

/-- Nothing valid. -/
def bare (fmt : Fmt) : State :=
  { full fmt with eng := { (full fmt).eng with
      calv := false, rawP := ⟨false, 5#24⟩, rawT := ⟨false, 6#24⟩, osP := ⟨false, 1#3⟩, osT := ⟨false, 2#3⟩
      fT := ⟨false, 0#64⟩, fP := ⟨false, 0#64⟩, fA := ⟨false, 0#64⟩, fH := ⟨false, 0#64⟩ } }

/-- A state with this script of answers. -/
def scripted (answers : List Answer) : State := { full .binary32 with script := answers }

/-- A command word at the port. -/
def atPort (s : State) (w : Word) : State := { s with cw := some w }

/-- A state whose `LDCAL` has come this far. -/
def atPhase (s : State) (p : LdcalPhase) : State := { s with phase := p }

/-- The host about to act. -/
def acting (s : State) (a : HostAction) : State := { s with pending := [a] }

/-- The next state, if that is the outcome. -/
def after : Host.Outcome State Fault Refusal → Option State
  | .next s => some s
  | .fault _ => none
  | .refused _ => none

/-- The last response given. -/
def lastResponse (o : Host.Outcome State Fault Refusal) : Option Response :=
  (after o).bind fun s => s.responses.getLast?

/-! ### Well-formedness: one ill-formed term for each check -/

theorem test_wf_refuses_index_9 : (Instr.rdcoef 9#4).wf = false ∧ (Instr.rdcoef 8#4).wf = true := by decide
theorem test_wf_refuses_wrf_5 : (Instr.wrf 5#4).wf = false ∧ (Instr.wrf 4#4).wf = true := by decide
theorem test_wf_refuses_rdf_15 : (Instr.rdf 15#4).wf = false ∧ (Instr.rdf 0#4).wf = true := by decide

/-! ### Decoding: words written out from 30_encoding R83, for every constructor -/

theorem test_decode_sext : decode 0b0001_0000_0000_0000_0000_1000_0000_0001#32 = .ok (.sext12 0x801#12)
    ∧ decode 0b0001_0001_0000_0000_1000_0000_0000_0001#32 = .ok (.sext16 0x8001#16)
    ∧ decode 0b0001_0010_0000_1000_0000_0000_0000_0001#32 = .ok (.sext20 0x80001#20)
    ∧ decode 0b0001_0011_1000_0000_0000_0000_0000_0001#32 = .ok (.sext24 0x800001#24) := by decide
theorem test_decode_cal : decode 0b0010_0000_0000_0000_0000_0000_0000_0000#32 = .ok .ldcal
    ∧ decode 0b0011_1000_0000_0000_0000_0000_0000_0000#32 = .ok (.rdcoef 8#4) := by decide
theorem test_decode_raw : decode 0b0100_0001_0000_0000_0000_0000_0000_0111#32 = .ok (.setos .temperature 7#3)
    ∧ decode 0b0101_0000_1111_1111_1111_1111_1111_1111#32 = .ok (.setraw .pressure 0xFFFFFF#24)
    ∧ decode 0b0110_0000_0000_0000_0000_0000_0000_0000#32 = .ok .ldrawp
    ∧ decode 0b0110_0001_0000_0000_0000_0000_0000_0000#32 = .ok .ldrawt
    ∧ decode 0b0111_0001_0000_0000_0000_0000_0000_0000#32 = .ok (.rdraw .temperature) := by decide
theorem test_decode_comp : decode 0b1000_0000_0000_0000_0000_0000_0000_0000#32 = .ok .compt
    ∧ decode 0b1001_0000_0000_0000_0000_0000_0000_0000#32 = .ok .compp
    ∧ decode 0b1010_0000_0000_0000_0000_0000_0000_0000#32 = .ok .alt
    ∧ decode 0b1011_0000_0000_0000_0000_0000_0000_0000#32 = .ok .sealvl := by decide
theorem test_decode_host : decode 0b1100_0100_0000_0000_0000_0000_0000_0000#32 = .ok (.wrf 4#4)
    ∧ decode 0b1101_0011_0000_0000_0000_0000_0000_0000#32 = .ok (.rdf 3#4)
    ∧ decode 0b1110_0000_0000_0000_0000_0000_0000_0000#32 = .ok .rdstat := by decide

/-- 95_test_vectors 3.1, 3.4, 3.5: illegal words at the boundaries, by reason. -/
theorem test_decode_illegal :
    decode 0x00000000#32 = .error .reservedOp ∧ decode 0xFFFFFFFF#32 = .error .reservedOp
    ∧ decode 0x14000000#32 = .error .badSelector ∧ decode 0x10001000#32 = .error .nonzeroImm
    ∧ decode 0x11010000#32 = .error .nonzeroImm ∧ decode 0x12100000#32 = .error .nonzeroImm
    ∧ decode 0x39000000#32 = .error .badSelector ∧ decode 0x30000001#32 = .error .nonzeroImm
    ∧ decode 0x40000008#32 = .error .nonzeroImm ∧ decode 0x42000000#32 = .error .badSelector
    ∧ decode 0x52000000#32 = .error .badSelector ∧ decode 0x62000000#32 = .error .badSelector
    ∧ decode 0x60000001#32 = .error .nonzeroImm ∧ decode 0x72000000#32 = .error .badSelector
    ∧ decode 0x81000000#32 = .error .badSelector ∧ decode 0xC5000000#32 = .error .badSelector
    ∧ decode 0xD3000001#32 = .error .nonzeroImm ∧ decode 0xE1000000#32 = .error .badSelector := by decide

theorem test_placed_word_runs :
    decodeTableWord 32 0xA0000000 = some .alt ∧ decodeTableWord 32 0xA0000001 = none := by decide

/-! ### Commands -/

/-- 40_sign_extension R101, R102. -/
theorem test_sext12_16 : lastResponse (exec (.sext12 0xEFC#12) (full .binary32)) = some ⟨.ok, 0xFFFFFEFC#64⟩
    ∧ lastResponse (exec (.sext16 0xF78B#16) (full .binary32)) = some ⟨.ok, 0xFFFFF78B#64⟩ := by decide +kernel
/-- 40_sign_extension R103, R104, R107: both sides of the threshold. -/
theorem test_sext20_24 : lastResponse (exec (.sext20 0x7FFFF#20) (full .binary32)) = some ⟨.ok, 0x7FFFF#64⟩
    ∧ lastResponse (exec (.sext20 0x80000#20) (full .binary32)) = some ⟨.ok, 0xFFF80000#64⟩
    ∧ lastResponse (exec (.sext24 0xFC0000#24) (full .binary32)) = some ⟨.ok, 0xFFFC0000#64⟩ := by decide +kernel

/-- 95_test_vectors 3.2, row F1 (both directions). -/
theorem test_unpack_F1 : unpackCal blockF1 = (full .binary32).eng.coefs ∧ packCal (unpackCal blockF1) = blockF1 := by
  decide +kernel
/-- 95_test_vectors 3.2, row nib: the shared bytes 1 and 5. -/
theorem test_unpack_nib :
    let c := unpackCal [0x00#8, 0xFF#8, 0x00#8, 0x00#8, 0x00#8, 0xFF#8, 0x00#8, 0x00#8, 0x01#8, 0x02#8, 0x03#8,
      0x04#8, 0x05#8, 0x06#8, 0x07#8, 0x08#8, 0x09#8, 0x0A#8]
    [c.c0.toInt, c.c1.toInt, c.c00.toInt, c.c10.toInt, c.c01.toInt, c.c11.toInt, c.c20.toInt, c.c21.toInt,
      c.c30.toInt] = [15, -256, 15, -65536, 258, 772, 1286, 1800, 2314] := by decide +kernel

/-- 95_test_vectors 3.3, first row, the step after a ready poll: the block frame of R53, the nine values. -/
theorem test_ldcal_block :
    (after (exec .ldcal (atPhase (scripted [.frame (0#8 :: blockF1)]) .block))).map
      (fun s => (s.eng.calv, s.eng.coefs.c10.toInt, s.cw, s.history)) = some (true, -66011, none,
        [.transfer (0x90#8 :: List.replicate 18 0#8) (some (0#8 :: blockF1))]) := by decide +kernel
/-- 95_test_vectors 3.3: `C0` goes on to the block; `7F` has bit 7 clear, so a sleep of 20 ms is next. -/
theorem test_ldcal_poll :
    (after (exec .ldcal (scripted [.frame [0#8, 0xC0#8]]))).map (fun s => (s.cw, s.phase))
      = some (some 0x20000000#32, .block)
    ∧ (after (exec .ldcal (scripted [.frame [0#8, 0x7F#8]]))).map (fun s => (s.phase, s.responses, s.history))
      = some (.sleep, [], [.transfer [0x88#8, 0#8] (some [0#8, 0x7F#8])])
    ∧ (after (exec .ldcal (atPhase (scripted []) .sleep))).map (fun s => (s.phase, s.history))
      = some (.poll, [.sleep 20]) := by decide +kernel
/-- 70_reset R221: `RST` between the ready poll and the block read leaves the poll in the history. -/
theorem test_rst_before_block :
    (after (step { atPhase (atPort (scripted [.frame []]) 0x20000000#32) .block with
        rst := [true], history := [.transfer [0x88#8, 0#8] (some [0#8, 0xC0#8])] })).map
      (fun t => (t.eng.calv, t.cw, t.responses, t.history))
    = some (false, none, [], [.transfer [0x88#8, 0#8] (some [0#8, 0xC0#8]),
        .cut (some (0x90#8 :: List.replicate 18 0#8))]) := by decide +kernel

/-- 95_test_vectors 3.2: c1 = -260; before any LDCAL the answer is 3/0. -/
theorem test_rdcoef : lastResponse (exec (.rdcoef 1#4) (full .binary32)) = some ⟨.ok, 0xFFFFFEFC#64⟩
    ∧ lastResponse (exec (.rdcoef 0#4) (bare .binary32)) = some ⟨.calNotValid, 0#64⟩ := by decide +kernel

/-- 95_test_vectors 3.4: from reset STATUS = 0x0000C108 after `SETOS P, 3`, 0x000E0110 after `SETOS T, 7`. -/
theorem test_setos :
    (after (exec (.setos .pressure 3#3) (State.resetWith ⟨.binary32, tableT1⟩))).map (fun s => statusWord s.eng)
      = some 0x0000C108#32
    ∧ (after (exec (.setos .temperature 7#3) (State.resetWith ⟨.binary32, tableT1⟩))).map
      (fun s => statusWord s.eng) = some 0x000E0110#32 := by decide +kernel

/-- 95_test_vectors 3.4. -/
theorem test_setraw : (after (exec (.setraw .pressure 0x800000#24) (bare .binary32))).map
    (fun s => (s.eng.rawP.valid, s.eng.rawP.val.toInt)) = some (true, -8388608) := by decide +kernel

/-- 95_test_vectors 3.4: bytes FC 00 00, and a failed transfer. -/
theorem test_ldrawp : (after (exec .ldrawp (scripted [.frame [9#8, 0xFC#8, 0#8, 0#8]]))).map
      (fun s => (s.eng.rawP.val.toInt, s.history))
      = some (-262144, [.transfer [0x80#8, 0#8, 0#8, 0#8] (some [9#8, 0xFC#8, 0#8, 0#8])])
    ∧ lastResponse (exec .ldrawp (scripted [.fail])) = some ⟨.busError, 0#64⟩ := by decide +kernel
/-- 95_test_vectors 3.4: address 0x03. -/
theorem test_ldrawt : (after (exec .ldrawt (scripted [.frame [9#8, 0x0F#8, 0x42#8, 0x40#8]]))).map
      (fun s => (s.eng.rawT.val.toInt, s.history))
      = some (1000000, [.transfer [0x83#8, 0#8, 0#8, 0#8] (some [9#8, 0x0F#8, 0x42#8, 0x40#8])]) := by
  decide +kernel

/-- 95_test_vectors 3.4. -/
theorem test_rdraw : lastResponse (exec (.rdraw .pressure) (full .binary32)) = some ⟨.ok, 0xFFFC0000#64⟩
    ∧ lastResponse (exec (.rdraw .pressure) (bare .binary32)) = some ⟨.operandUnwritten, 0#64⟩ := by
  decide +kernel

/-- 95_test_vectors 4.1, rows A and B: temperatures in both formats. -/
theorem test_compt :
    (after (exec .compt (full .binary32))).map (fun s => s.eng.fT) = some ⟨true, 0x42200000#64⟩
    ∧ (after (exec .compt (full .binary64))).map (fun s => s.eng.fT) = some ⟨true, 0x4044000000000000#64⟩
    ∧ (compTemp .binary32 1000000 7864320 210 (-260)).toBits .binary32 = 0x428FE0EB#64
    ∧ (compTemp .binary32 (-5) 524288 0 0).toBits .binary32 = 0#64 := by decide +kernel

/-- 95_test_vectors 4.1, rows A, B and MAX: pressures in both formats. -/
theorem test_compp :
    (after (exec .compp (full .binary32))).map (fun s => s.eng.fP) = some ⟨true, 0x47D9E018#64⟩
    ∧ (after (exec .compp (full .binary64))).map (fun s => s.eng.fP) = some ⟨true, 0x40FB3C0300000000#64⟩
    ∧ (compPres .binary32 3000000 1000000 7864320 7864320 (unpackCal blockF1)).toBits .binary32 = 0x47553D0E#64
    ∧ (compPres .binary64 8388607 8388607 253952 253952 (unpackCal blockF1)).toBits .binary64
        = 0xC18F98CBFB7B0E00#64 := by decide +kernel

/-- 95_test_vectors 5.1 (P/100 = S gives +0) and 5.4 (a negative pressure). -/
theorem test_alt : (after (exec .alt (full .binary32))).map (fun s => s.eng.fA) = some ⟨true, 0#64⟩
    ∧ altChecked .binary32 (.ofBits .binary32 0xBF800000#64) (.ofBits .binary32 0x447D5000#64) = none
    ∧ altChecked .binary32 (.ofBits .binary32 0#64) (.ofBits .binary32 0#64) = none := by decide +kernel

/-- 95_test_vectors 5.2 (H = 0 gives P/100) and 5.4 (H = 44330, H = 50000). -/
theorem test_sealvl :
    (after (exec .sealvl (full .binary64))).map (fun s => s.eng.fS) = some ⟨true, 0x408FAA0000000000#64⟩
    ∧ seaChecked .binary32 (.ofBits .binary32 0x47C5E680#64) (.ofBits .binary32 0x472D2A00#64) = none
    ∧ seaChecked .binary32 (.ofBits .binary32 0x47C5E680#64) (.ofBits .binary32 0x47435000#64) = none := by
  decide +kernel

/-- 95_test_vectors 6, steps 3 to 5: a NaN pattern is kept; ERR stays 4. -/
theorem test_wrf : (after (exec (.wrf 0#4) { bare .binary32 with din := 0xFFFFFFFF7FC00000#64 })).map
    (fun s => s.eng.fT) = some ⟨true, 0x7FC00000#64⟩ := by decide +kernel
theorem test_rdf : lastResponse (exec (.rdf 3#4) (State.resetWith ⟨.binary32, tableT1⟩)) = some ⟨.ok, 0x447D5000#64⟩
    ∧ lastResponse (exec (.rdf 0#4) (State.resetWith ⟨.binary32, tableT1⟩)) = some ⟨.operandUnwritten, 0#64⟩ := by
  decide +kernel

/-- 95_test_vectors 6, step 1, and section 3.1: after an illegal word STATUS = 0x00000900. -/
theorem test_rdstat : lastResponse (exec .rdstat (State.resetWith ⟨.binary32, tableT1⟩)) = some ⟨.ok, 0x100#64⟩
    ∧ (after (step (atPort (State.resetWith ⟨.binary32, tableT1⟩) 0x10001000#32))).map (fun s => statusWord s.eng)
      = some 0x00000900#32 := by decide +kernel

/-- 00_scope R12: the constants in both formats. -/
theorem test_constants :
    (constAltExp .binary32).toBits .binary32 = 0x3E42DE01#64 ∧ (constAltExp .binary64).toBits .binary64 = 0x3FC85BC01A36E2EB#64
    ∧ (constSeaExp .binary32).toBits .binary32 = 0xC0A828F6#64 ∧ (constSeaExp .binary64).toBits .binary64 = 0xC015051EB851EB85#64
    ∧ (const44330 .binary32).toBits .binary32 = 0x472D2A00#64 ∧ (const100 .binary64).toBits .binary64 = 0x4059000000000000#64 := by
  decide +kernel

/-- 30_encoding R87: its examples, and R88's aliases. -/
theorem test_assemble_R87 :
    assemble .binary32 "SEXT12" [.int 0x800] = some (0x10000800#32, 0#64)
    ∧ assemble .binary32 "RDCOEF" [.name "c10"] = some (0x33000000#32, 0#64)
    ∧ assemble .binary32 "SETOS" [.name "P", .int 3] = some (0x40000003#32, 0#64)
    ∧ assemble .binary32 "SETRAW" [.name "T", .int 131072] = some (0x51020000#32, 0#64)
    ∧ assemble .binary32 "SETRAW" [.name "P", .int (-262144)] = some (0x50FC0000#32, 0#64)
    ∧ assemble .binary32 "WRF" [.name "S", .dec false 101325 100] = some (0xC3000000#32, 0x447D5000#64)
    ∧ assemble .binary64 "WRF" [.name "S", .dec false 101325 100] = some (0xC3000000#32, 0x408FAA0000000000#64)
    ∧ assemble .binary32 "RDF" [.name "A"] = some (0xD2000000#32, 0#64) := by decide +kernel
theorem test_assemble_R88 :
    assemble .binary32 "SETOST" [.int 0] = some (0x41000000#32, 0#64)
    ∧ assemble .binary32 "RDRAWP" [] = some (0x70000000#32, 0#64)
    ∧ assemble .binary32 "SETRAWP" [.int (-262144)] = some (0x50FC0000#32, 0#64)
    ∧ assemble .binary32 "SETOSP" [.int 8] = none ∧ assemble .binary32 "RDCOEF" [.int 9] = none := by decide +kernel

/-- A command from the host's list takes one step to be presented and one to run (log 7). -/
theorem test_present_then_run :
    (after (step (acting (full .binary32) (.command 0x13FFFFFF#32 0#64)))).map (fun s => (s.cw, s.pending))
      = some (some 0x13FFFFFF#32, []) := by decide +kernel

/-- 60_exceptions R204: after the wait "the host issues `LDCAL` and `SETOS` again". -/
theorem test_sensor_reset_reissues :
    (after (step (acting (scripted [.frame [0#8, 0x40#8]]) .waitSensorReady))).map
      (fun s => (s.pending.head?, s.pending.length)) = some (some (.command 0x20000000#32 0#64), 3) := by
  decide +kernel

/-! ### Witnesses: each statement's hypotheses met together, clause by clause -/

theorem witness_DecodeOfEncode : (Instr.rdcoef 8#4).WellFormed ∧ (Instr.wrf 4#4).WellFormed
    ∧ (Instr.rdf 4#4).WellFormed ∧ Instr.rdstat.WellFormed := by decide
theorem witness_EncodeOfDecode : decode 0x38000000#32 = .ok (.rdcoef 8#4)
    ∧ decode 0x41000007#32 = .ok (.setos .temperature 7#3) := by decide
theorem witness_DecoderFollowsOpcodeMap :
    (⟨"RDCOEF", 0x30000000#32, 0xF0FFFFFF#32, 8⟩ : OpcodeRow) ∈ opcodeRows
    ∧ OpcodeRow.spells ⟨"RDCOEF", 0x30000000#32, 0xF0FFFFFF#32, 8⟩ 0x38000000#32 = true
    ∧ OpcodeRow.spells ⟨"RDCOEF", 0x30000000#32, 0xF0FFFFFF#32, 8⟩ 0x39000000#32 = false := by decide
theorem witness_IllegalWordsRaiseIllegalCommand : (atPort (full .binary32) 0#32).rstAsserted = false
    ∧ (atPort (full .binary32) 0#32).cw = some 0#32 ∧ decode 0#32 = .error .reservedOp := by decide
theorem witness_StepRunsDecodedCommand : (atPort (full .binary64) 0xE0000000#32).rstAsserted = false
    ∧ (atPort (full .binary64) 0xE0000000#32).cw = some 0xE0000000#32
    ∧ decode 0xE0000000#32 = .ok .rdstat := by decide
theorem witness_OnlyHostAddressStops :
    (∃ t, step (full .binary32) = .next t)
    ∧ step (acting (full .binary32) (.readReg 0x80#8)) = .fault .noSuchAddress
    ∧ ∃ t, step (acting (full .binary32) (.writeReg 0x7F#8 0#8)) = .next t := ⟨⟨_, rfl⟩, rfl, ⟨_, rfl⟩⟩
theorem witness_DinIgnoredExceptByWrf : ∀ r, Instr.rdstat ≠ .wrf r := by decide
theorem witness_ParametersNeverChange : ∃ t, step (atPort (full .binary32) 0xE0000000#32) = .next t := ⟨_, rfl⟩
theorem witness_OneResponseOrLdcalWaits :
    (atPhase (atPort (full .binary32) 0x20000000#32) .sleep).PortOk ∧ (full .binary32).PortOk
    ∧ ∃ t, step (atPhase (atPort (full .binary32) 0x20000000#32) .sleep) = .next t :=
  ⟨.inr rfl, .inl rfl, ⟨_, rfl⟩⟩
theorem witness_RstResetsFromAnyState :
    let s (w : Word) : State := { atPort (full .binary32) w with rst := [true] }
    let t : State := { full .binary32 with rst := [true, false] }
    (s 0x20000000#32).rstAsserted = true ∧ (s 0x20000000#32).cw = some 0x20000000#32
    ∧ (s 0x60000000#32).cw = some 0x60000000#32 ∧ (s 0x61000000#32).cw = some 0x61000000#32
    ∧ t.rstAsserted = true ∧ t.cw = none := by decide
theorem witness_SextLaws : (12 ∈ [12, 16, 20, 24]) ∧ 0x800 < 2 ^ 12 ∧ 0x7FF < 2 ^ 12
    ∧ -(2 ^ (24 - 1) : Int) ≤ -8388608 ∧ (8388607 : Int) ≤ 2 ^ (24 - 1) - 1 := by decide
theorem witness_MemReadIsOneFramedTransaction :
    (scripted [.frame [1#8, 2#8]]).answer [0x88#8, 0#8] = some [1#8, 2#8]
    ∧ (scripted [.frame [1#8, 2#8]]).readData 0x08#7 1 = some [2#8]
    ∧ (scripted [.fail]).readData 0x08#7 1 = none := by decide +kernel
theorem witness_StaticImageAnswersReads :
    let s : State := { full .binary32 with image := [(0x7E, 1#8), (0x7F, 2#8)] }
    s.script = [] ∧ (0x7E#7).toNat + 2 ≤ 128 ∧ Image.covers s.image (0x7E#7).toNat 2 = true
    ∧ Image.wf s.image = true := by decide +kernel
theorem witness_OnlyLoadsReachTheSensor : (∃ t, exec .rdstat (full .binary32) = .next t)
    ∧ usesBus .rdstat = false ∧ ∃ t, exec .ldrawp (full .binary32) = .next t := ⟨⟨_, rfl⟩, rfl, ⟨_, rfl⟩⟩
theorem witness_UnpackCal : blockF1.length = 18 := by decide
theorem witness_LdcalLoadsAllCoefficients :
    let s := atPort (scripted [.frame [0#8, 0x80#8], .frame (0#8 :: blockF1)]) 0x20000000#32
    let b := atPhase (scripted [.frame (0#8 :: blockF1)]) .block
    b.phase = .block ∧ b.readData 0x10#7 18 = some blockF1
    ∧ s.rst = [] ∧ s.cw = some 0x20000000#32 ∧ s.phase = .poll
    ∧ s.readData 0x08#7 1 = some [0x80#8] ∧ (0x80#8).getLsbD 7 = true
    ∧ (s.afterRead 0x08#7 1).readData 0x10#7 18 = some blockF1 := by decide +kernel
theorem witness_LdcalBusErrorKeepsCoefficients :
    let s := scripted [.fail]
    s.phase = .poll ∧ s.readData 0x08#7 1 = none
    ∧ (atPhase s .block).phase = .block ∧ (atPhase s .block).readData 0x10#7 18 = none := by decide +kernel
theorem witness_LdcalPollsAgainUntilReady :
    (scripted [.frame [0#8, 0x7F#8]]).phase = .poll
    ∧ (scripted [.frame [0#8, 0x7F#8]]).readData 0x08#7 1 = some [0x7F#8] ∧ (0x7F#8).getLsbD 7 = false
    ∧ (scripted [.frame [0#8, 0x80#8]]).readData 0x08#7 1 = some [0x80#8] ∧ (0x80#8).getLsbD 7 = true
    ∧ (atPhase (full .binary32) .sleep).phase = .sleep := by decide +kernel
/-- The polls 40, 00, C0 of 95_test_vectors 3.3. -/
theorem witness_LdcalCompletesAfterPolls :
    let s := atPort (scripted [.frame [0#8, 0x40#8], .frame [7#8, 0x00#8], .frame [0#8, 0xC0#8],
      .frame (0#8 :: blockF1), .fail]) 0x20000000#32
    let polls : List (Byte × Byte) := [(0#8, 0x40#8), (7#8, 0x00#8)]
    s.rst = [] ∧ s.cw = some 0x20000000#32 ∧ s.phase = .poll ∧ (∀ p ∈ polls, p.2.getLsbD 7 = false)
    ∧ (0xC0#8).getLsbD 7 = true ∧ blockF1.length = 18
    ∧ s.script = polls.map (fun p => .frame [p.1, p.2]) ++ .frame [0#8, 0xC0#8] :: .frame (0#8 :: blockF1)
        :: [.fail] :=
  ⟨rfl, rfl, rfl, by simp, rfl, rfl, rfl⟩
theorem witness_LdcalHangsWhenNeverReady :
    let s : State := { atPort (full .binary32) 0x20000000#32 with image := [(8, 0#8)] }
    s.rst = [] ∧ s.cw = some 0x20000000#32 ∧ s.phase = .poll ∧ s.script = []
    ∧ Image.read s.image 0x08 = some 0#8 ∧ (0#8).getLsbD 7 = false := by decide
theorem witness_RdcoefAnswersCoefficient : (full .binary32).eng.calv = true
    ∧ [(full .binary32).eng.coefs.c0.toInt][0]? = some 210
    ∧ (bare .binary32).eng.calv = false ∧ (8#4).toNat ≤ 8 ∧ 8 < (9#4).toNat := by decide
theorem witness_CoefficientsWrittenOnlyByLdcal :
    ∃ t, step (atPort (full .binary32) 0x20000000#32) = .next t := ⟨_, rfl⟩
theorem witness_LdrawLoadsBigEndianSample :
    (scripted [.frame [0#8, 0x80#8, 0#8, 1#8]]).readData 0x00#7 3 = some [0x80#8, 0#8, 1#8]
    ∧ (scripted [.frame [0#8, 0x7F#8, 0xFF#8, 0xFF#8]]).readData 0x03#7 3 = some [0x7F#8, 0xFF#8, 0xFF#8]
    ∧ (scripted [.fail]).readData 0x00#7 3 = none ∧ (scripted [.fail]).readData 0x03#7 3 = none := by
  decide +kernel
theorem witness_RdrawAnswersSample : (full .binary32).eng.rawP.valid = true
    ∧ (bare .binary32).eng.rawT.valid = false := by decide
theorem witness_RegistersWrittenOnlyByTheirCommands : (∃ t, exec .ldrawt (full .binary32) = .next t)
    ∧ (∃ t, exec (.setos .pressure 1#3) (full .binary32) = .next t)
    ∧ ∃ t, exec (.wrf 1#4) (full .binary32) = .next t := ⟨⟨_, rfl⟩, ⟨_, rfl⟩, ⟨_, rfl⟩⟩
theorem witness_FloatOpsRoundToNearestEven : FloatVal.wf .binary32 (.fin true 1) = true
    ∧ FloatVal.wf .binary32 (.fin false 0x7F7FFFFF) = true
    ∧ (FloatVal.toRat? .binary32 (.fin false 0x3F800000)) = some 1
    ∧ (FloatVal.toRat? .binary32 (.fin true 0x40000000)) = some (-2) := by decide +kernel
theorem witness_CompensationOperands :
    (full .binary32).eng.calv = true ∧ (full .binary32).eng.rawT.valid = true
    ∧ (full .binary32).eng.osT.valid = true ∧ (full .binary32).eng.rawP.valid = true
    ∧ (full .binary32).eng.osP.valid = true ∧ (bare .binary32).eng.calv = false
    ∧ (let s : State := { bare .binary32 with eng := { (bare .binary32).eng with calv := true } }
       s.eng.calv = true ∧ s.eng.rawT.valid = false) := by decide
theorem witness_CompensationAlwaysFinite : 0 < 1 ∧ 1 < 2 ^ 24 ∧ 0 < 2 ^ 24 - 1 ∧ 2 ^ 24 - 1 < 2 ^ 24 := by decide
theorem witness_ComptCornersGiveHalfC0 : 0 < 524288 ∧ 524288 < 2 ^ 24 ∧ (0#24 = 0#24 ∨ 5#12 = 0#12) := by decide
/-- `raw` = 192 = 64 * 3 over `K` = 3 * 2^19, in both formats; the sum is the larger bound's. -/
theorem witness_ComptExactWhenQuotientRepresentable : ∀ f ∈ [Fmt.binary32, Fmt.binary64],
    0 < 3 ∧ 3 * 2 ^ 19 < 2 ^ 24 ∧ (192#24).toInt = 64 * (3 : Nat)
    ∧ (64 * (BitVec.ofInt 12 (-260)).toInt).natAbs ≤ 2 ^ f.prec
    ∧ (2 * 64 * (BitVec.ofInt 12 (-260)).toInt + (15#12).toInt * 2 ^ 19).natAbs ≤ 2 ^ f.prec := by decide
theorem witness_PowerHasNamedProperties :
    (constAltExp .binary32).finite = true ∧ (constAltExp .binary32).isZero = false
    ∧ (constAltExp .binary32).ltZero = false ∧ (constAltExp .binary32).isOddInteger .binary32 = false
    ∧ (constSeaExp .binary32).ltZero = true ∧ (FloatVal.fin true 0).isZero = true
    ∧ (const100 .binary32).finite = true ∧ (const100 .binary32).isZero = false
    ∧ (const100 .binary32).ltZero = false := by decide +kernel
theorem witness_AltWritesAltitude : ∀ f ∈ [Fmt.binary32, Fmt.binary64],
    let p := (full f).floatOf .p
    let sl := (full f).floatOf .s
    p.finite = true ∧ sl.finite = true ∧ (hectopascals f p).finite = true ∧ (altBase f p sl).finite = true
    ∧ (altBase f p sl).ltZero = false ∧ (altPower f p sl).finite = true ∧ (altValue f p sl).finite = true := by
  decide +kernel
theorem witness_SealvlWritesSeaLevelPressure : ∀ f ∈ [Fmt.binary32, Fmt.binary64],
    let p := (full f).floatOf .p
    let h := (full f).floatOf .h
    p.finite = true ∧ h.finite = true ∧ (hectopascals f p).finite = true ∧ (seaQuotient f h).finite = true
    ∧ (seaBase f h).finite = true ∧ (seaBase f h).ltZero = false ∧ (seaPower f h).finite = true
    ∧ (seaValue f p h).finite = true ∧ (hectopascals f p).isZero = false ∧ h.isZero = true := by
  decide +kernel
/-- A NaN, a negative ratio, a zero sea-level pressure (95_test_vectors 5.4): conditions of R160. -/
theorem witness_AltitudeErrorsWriteNothing :
    (bare .binary32).eng.fP.valid = false ∧ (bare .binary32).eng.fH.valid = false
    ∧ (FloatVal.ofBits .binary32 0x7FC00000#64).finite = false
    ∧ (altBase .binary32 (.ofBits .binary32 0x47C5E680#64) (.ofBits .binary32 0#64)).finite = false
    ∧ (altBase .binary32 (.ofBits .binary32 0xBF800000#64) (.ofBits .binary32 0x447D5000#64)).ltZero = true
    ∧ (seaBase .binary32 (.ofBits .binary32 0x47435000#64)).ltZero = true
    ∧ (seaPower .binary32 (.ofBits .binary32 0x472D2A00#64)).finite = false := by decide +kernel
theorem witness_AltitudeFormulasMeetIdealValues :
    FloatVal.wf .binary32 (.fin false 0x42C80000) = true ∧ FloatVal.wf .binary32 (.fin false 0x3F800000) = true
    ∧ FloatVal.toRat? .binary32 (.fin false 0x42C80000) = some 100
    ∧ FloatVal.toRat? .binary32 (.fin false 0x3F800000) = some 1 ∧ (1 : Rat) ≠ 0 ∧ (100 : Rat) = 100 * 1
    ∧ FloatVal.toRat? .binary32 (.fin true 0) = some 0 ∧ (0 : Rat) < 1
    ∧ (FloatVal.fin true 0).isZero = true := by decide +kernel
theorem witness_ideal_round_trip : (0 : ℝ) < 90000 ∧ (1000 : ℝ) < 44330 := by norm_num
theorem witness_OnlyWrfWritesNonFinite :
    (full .binary32).params.Admissible
    ∧ (∀ n, Instr.compt ≠ .wrf n)
    ∧ (after (exec .compt (full .binary32))).map (fun t => decide (t.eng.freg .t ≠ (full .binary32).eng.freg .t))
      = some true :=
  ⟨by unfold Params.Admissible; decide +kernel, by decide, by decide +kernel⟩
theorem witness_WrfStoresPattern : 4 < (5#4).toNat ∧ 4 < (15#4).toNat := by decide
theorem witness_RdfAnswersPattern : (full .binary32).eng.fH.valid = true
    ∧ (bare .binary32).eng.fT.valid = false := by decide
theorem witness_FailedCommand :
    (after (exec .compt (bare .binary32))).map (fun t => t.responses) = some ([] ++ [⟨.calNotValid, 0#64⟩]) := by
  decide +kernel
theorem witness_StatusesAsTabled :
    (after (exec .rdstat (full .binary32))).map (fun t => t.responses.length) = some 1 := by decide +kernel
theorem witness_ErrIsFirst : (full .binary32).ErrIsFirst
    ∧ ∃ t, step (atPort (full .binary32) 0#32) = .next t := ⟨rfl, ⟨_, rfl⟩⟩
theorem witness_PatternsFit : (full .binary32).PatternsFit
    ∧ ∃ t, step (atPort (full .binary32) 0x80000000#32) = .next t :=
  ⟨⟨by intro r; cases r <;> decide, by decide, by intro r hr; cases hr⟩, ⟨_, rfl⟩⟩
theorem witness_UnwrittenContents :
    (bare .binary32).Agrees { bare .binary32 with eng := { (bare .binary32).eng with rawP := ⟨false, 77#24⟩ } } := by
  refine ⟨⟨rfl, by decide, rfl, ?_, ?_, ?_⟩, rfl⟩
  · intro ch; cases ch <;> exact ⟨rfl, by decide⟩
  · intro ch; cases ch <;> exact ⟨rfl, by decide⟩
  · intro r; cases r <;> exact ⟨rfl, by decide⟩
theorem witness_HostRegisterAccess :
    let s := acting (scripted [.frame [0#8, 5#8]]) (.readReg 0x7F#8)
    let f := acting (scripted [.fail]) (.readReg 0#8)
    let w := acting (full .binary32) (.writeReg 0x7F#8 1#8)
    let o := acting (full .binary32) (.writeReg 0x80#8 1#8)
    s.rst = [] ∧ s.cw = none ∧ (0x7F#8).toNat < 128 ∧ 128 ≤ (0x80#8).toNat
    ∧ s.pending = [.readReg 0x7F#8] ∧ s.readData ((0x7F#8).setWidth 7) 1 = some [5#8]
    ∧ f.pending = [.readReg 0#8] ∧ f.readData ((0#8).setWidth 7) 1 = none
    ∧ w.pending = [.writeReg 0x7F#8 1#8] ∧ o.pending = [.writeReg 0x80#8 1#8] := by decide +kernel
theorem witness_SetModeChecksThenRewrites :
    let s := acting (scripted [.frame [0#8, 0xF7#8], .frame [0#8, 0#8]]) (.setMode .continuousBoth)
    let f := acting (scripted [.fail]) (.setMode .continuousBoth)
    let r := acting (full .binary32) (.setMode .invalid2)
    let o := { acting (full .binary32) (.setMode .temperatureOnly) with hostT := ⟨0#3, 1#3⟩ }
    s.rst = [] ∧ s.cw = none ∧ s.pending = [.setMode .continuousBoth]
    ∧ f.pending = [.setMode .continuousBoth] ∧ f.readData 0x08#7 1 = none
    ∧ s.readData 0x08#7 1 = some [0xF7#8]
    ∧ (s.afterRead 0x08#7 1).writeOk 0x08#7
        ((0xF7#8 &&& 0xF8#8) ||| OperatingMode.continuousBoth.code.setWidth 8) = true
    ∧ r.rst = [] ∧ r.cw = none ∧ r.pending = [.setMode .invalid2]
    ∧ o.pending = [.setMode .temperatureOnly] ∧ o.hostT.level ≠ 0#3 := by decide +kernel
/-- The budget is a parameter: one of the two clauses applies, and each transfer can succeed or fail. -/
theorem witness_ConfigureChannelArmsSensorThenEngine :
    let s := acting (scripted [.frame [], .frame [0#8, 0xFF#8], .frame []]) (.configureChannel .pressure 6#3 4#3)
    let f1 := acting (scripted [.fail]) (.configureChannel .pressure 6#3 4#3)
    let f2 := acting (scripted [.frame [], .fail]) (.configureChannel .pressure 6#3 4#3)
    let f3 := acting (scripted [.frame [], .frame [0#8, 0xFF#8], .fail]) (.configureChannel .pressure 6#3 4#3)
    s.rst = [] ∧ s.cw = none ∧ s.pending = [.configureChannel .pressure 6#3 4#3]
    ∧ (Config.budgetOk 6#3 4#3 s.hostT.rate s.hostT.level = true
        ∨ Config.budgetOk 6#3 4#3 s.hostT.rate s.hostT.level = false)
    ∧ ∀ v : Byte, s.writeOk 0x06#7 v = true
      ∧ (s.afterWrite 0x06#7 v).readData 0x09#7 1 = some [0xFF#8]
      ∧ ((s.afterWrite 0x06#7 v).afterRead 0x09#7 1).writeOk 0x09#7 (0xFF#8 ||| 4#8) = true
      ∧ f1.writeOk 0x06#7 v = false
      ∧ f2.writeOk 0x06#7 v = true ∧ (f2.afterWrite 0x06#7 v).readData 0x09#7 1 = none
      ∧ f3.writeOk 0x06#7 v = true ∧ (f3.afterWrite 0x06#7 v).readData 0x09#7 1 = some [0xFF#8]
      ∧ ((f3.afterWrite 0x06#7 v).afterRead 0x09#7 1).writeOk 0x09#7 (0xFF#8 ||| 4#8) = false :=
  ⟨rfl, rfl, rfl, by cases Config.budgetOk 6#3 4#3 _ _ <;> simp,
    fun _ => ⟨rfl, rfl, rfl, rfl, rfl, rfl, rfl, rfl, rfl⟩⟩
theorem witness_SensorResetWritesThenWaits :
    let s := acting (scripted [.frame []]) .sensorReset
    let w := acting (scripted [.frame [0#8, 0x40#8]]) .waitSensorReady
    let n := acting (scripted [.frame [0#8, 0xBF#8]]) .waitSensorReady
    s.rst = [] ∧ s.cw = none ∧ s.pending = [.sensorReset] ∧ s.writeOk 0x0C#7 0x89#8 = true
    ∧ w.pending = [.waitSensorReady] ∧ w.readData 0x08#7 1 = some [0x40#8] ∧ (0x40#8).getLsbD 6 = true
    ∧ n.readData 0x08#7 1 = some [0xBF#8] ∧ (0xBF#8).getLsbD 6 = false
    ∧ (scripted [.fail]).writeOk 0x0C#7 0x89#8 = false
    ∧ (scripted [.fail]).readData 0x08#7 1 = none := by decide +kernel
theorem witness_WaitMeasurementAndProductId :
    let w := acting (scripted [.frame [0#8, 0x30#8]]) (.waitMeasurement 0)
    let n := acting (scripted [.frame [0#8, 0x20#8]]) (.waitMeasurement 0)
    let c := acting (scripted [.frame [0#8, 0x10#8]]) .checkProductId
    let d := acting (scripted [.frame [0#8, 0x11#8]]) .checkProductId
    w.rst = [] ∧ w.cw = none ∧ w.pending = [.waitMeasurement 0] ∧ w.readData 0x08#7 1 = some [0x30#8]
    ∧ (0x30#8).getLsbD 5 = true ∧ (0x30#8).getLsbD 4 = true
    ∧ n.readData 0x08#7 1 = some [0x20#8] ∧ (0x20#8).getLsbD 4 = false
    ∧ c.pending = [.checkProductId] ∧ c.readData 0x0D#7 1 = some [0x10#8]
    ∧ d.readData 0x0D#7 1 = some [0x11#8] ∧ 0x11#8 ≠ 0x10#8
    ∧ (scripted [.fail]).readData 0x08#7 1 = none ∧ (scripted [.fail]).readData 0x0D#7 1 = none := by decide +kernel
theorem witness_HostPresentsCommandsAndLeavesEngineAlone :
    (acting (full .binary32) (.command 0#32 0#64)).pending = [.command 0#32 0#64]
    ∧ (full .binary32).pending = [] ∧ (full .binary32).rstAsserted = false ∧ (full .binary32).cw = none
    ∧ (∃ t, step (acting (full .binary32) (.setMode .idle)) = .next t)
    ∧ ∃ t, step (acting (full .binary32) (.command 0#32 0#64)) = .next t :=
  ⟨rfl, rfl, rfl, rfl, ⟨_, rfl⟩, ⟨_, rfl⟩⟩

end Sys2Proof.Tests
end

section
/-! PROOFS. The values of a format's magnitudes: exponent and significand, the order, the grid. -/

namespace Sys2Proof

/-! ### The magnitudes of a format -/

/-- Every magnitude is an exponent and a significand, normal or of the least exponent. -/
theorem exists_significand (fmt : Fmt) (mag : Nat) : ∃ k m, mag = k * 2 ^ (fmt.prec - 1) + m ∧
    m < 2 * 2 ^ (fmt.prec - 1) ∧ (k = 0 ∨ 2 ^ (fmt.prec - 1) ≤ m) := by
  have hM : 0 < 2 ^ (fmt.prec - 1) := Nat.two_pow_pos _
  have hdm := Nat.div_add_mod mag (2 ^ (fmt.prec - 1))
  have hlt := Nat.mod_lt mag hM
  cases he : mag / 2 ^ (fmt.prec - 1) with
  | zero =>
    rw [he] at hdm
    exact ⟨0, mag, by omega, by omega, .inl rfl⟩
  | succ k =>
    rw [he] at hdm
    exact ⟨k, 2 ^ (fmt.prec - 1) + mag % 2 ^ (fmt.prec - 1), by linarith, by omega, .inr (by omega)⟩

/-- The value of an exponent and a significand, the carry into the next exponent included. -/
theorem unitsOf_significand (fmt : Fmt) (k m : Nat) (hm : m ≤ 2 * 2 ^ (fmt.prec - 1))
    (hk : k = 0 ∨ 2 ^ (fmt.prec - 1) ≤ m) :
    unitsOf fmt (k * 2 ^ (fmt.prec - 1) + m) = m * 2 ^ k := by
  have hM : 0 < 2 ^ (fmt.prec - 1) := Nat.two_pow_pos _
  unfold unitsOf
  generalize 2 ^ (fmt.prec - 1) = M at *
  rw [Nat.mul_comm k M, Nat.mul_add_div hM, Nat.mul_add_mod]
  rcases Nat.lt_or_ge m M with h | h
  · have hk : k = 0 := by omega
    simp [hk, Nat.div_eq_of_lt h, Nat.mod_eq_of_lt h]
  · rcases Nat.lt_or_ge m (2 * M) with h2 | h2
    · have hd : m / M = 1 := Nat.div_eq_of_lt_le (by omega) (by omega)
      have hr : m % M = m - M := by rw [Nat.mod_eq_sub_mod h, Nat.mod_eq_of_lt (by omega)]
      simp [hd, hr, Nat.add_sub_cancel' h]
    · obtain rfl : m = 2 * M := by omega
      simp [Nat.mul_div_cancel _ hM]
      ring

/-- A greater magnitude is a greater value. -/
theorem unitsOf_strictMono (fmt : Fmt) : StrictMono (unitsOf fmt) := by
  refine strictMono_nat_of_lt_succ fun mag => ?_
  obtain ⟨k, m, rfl, hm, hk⟩ := exists_significand fmt mag
  rw [Nat.add_assoc, unitsOf_significand fmt k m hm.le hk,
    unitsOf_significand fmt k (m + 1) hm (hk.imp_right Nat.le_succ_of_le)]
  exact Nat.mul_lt_mul_of_pos_right (Nat.lt_succ_self m) (Nat.two_pow_pos k)

@[simp] theorem unitsOf_zero (fmt : Fmt) : unitsOf fmt 0 = 0 := by simp [unitsOf]

/-- The values from `2 ^ (prec - 1 + k)` on are whole multiples of `2 ^ k`. -/
theorem dvd_unitsOf_of_le (fmt : Fmt) (k mag : Nat)
    (h : 2 ^ (fmt.prec - 1) * 2 ^ k ≤ unitsOf fmt mag) : 2 ^ k ∣ unitsOf fmt mag := by
  obtain ⟨k', m, rfl, hm, hk⟩ := exists_significand fmt mag
  rw [unitsOf_significand fmt k' m hm.le hk] at h ⊢
  have hlt : 2 ^ (fmt.prec - 1) * 2 ^ k < 2 ^ (fmt.prec - 1) * 2 ^ (k' + 1) :=
    calc _ ≤ m * 2 ^ k' := h
      _ < 2 * 2 ^ (fmt.prec - 1) * 2 ^ k' := Nat.mul_lt_mul_of_pos_right hm (Nat.two_pow_pos k')
      _ = _ := by ring
  have hkk : k < k' + 1 := (Nat.pow_lt_pow_iff_right (by decide)).1 (Nat.lt_of_mul_lt_mul_left hlt)
  exact (pow_dvd_pow 2 (Nat.le_of_lt_succ hkk)).mul_left m

end Sys2Proof
end

section
/-! PROOFS. `roundTo` takes the nearest magnitude, in units of the least positive datum and with no bound
on the exponent. -/

namespace Sys2Proof

/-! ### Rounding to the nearest magnitude -/

/-- No whole number is nearer to the quotient than the rounded one; where another is as near, it is even. -/
theorem roundHalfEven_nearest (num den j : Nat) (hden : 0 < den) :
    |(roundHalfEven num den : Rat) - num / den| ≤ |(j : Rat) - num / den| ∧
    (|(roundHalfEven num den : Rat) - num / den| = |(j : Rat) - num / den| →
      j ≠ roundHalfEven num den → roundHalfEven num den % 2 = 0) := by
  obtain ⟨hup, hlow, htie⟩ := roundHalfEven_near num den hden
  generalize roundHalfEven num den = m at *
  have hd : (0 : Rat) < den := by exact_mod_cast hden
  have hx : (num : Rat) / den * den = num := div_mul_cancel₀ _ hd.ne'
  generalize (num : Rat) / den = x at *
  have hhalf : |(m : Rat) - x| ≤ 1 / 2 := by
    have hup' : 2 * ((m : Rat) * den) ≤ 2 * num + den := by exact_mod_cast hup
    have hlow' : 2 * (num : Rat) ≤ 2 * (m * den) + den := by exact_mod_cast hlow
    rw [abs_le]
    constructor <;> nlinarith
  have heven : |(m : Rat) - x| = 1 / 2 → m % 2 = 0 := by
    intro h
    refine htie ?_
    rcases (abs_eq (by norm_num)).1 h with h | h
    · left
      have : 2 * (num : Rat) + den = 2 * (m * den) := by rw [← hx]; linear_combination (-2 * den : Rat) * h
      exact_mod_cast this
    · right
      have : 2 * (num : Rat) = 2 * (m * den) + den := by rw [← hx]; linear_combination (-2 * den : Rat) * h
      exact_mod_cast this
  rcases eq_or_ne j m with rfl | hj
  · exact ⟨le_rfl, fun _ h => absurd rfl h⟩
  · have hgap : (1 : Rat) ≤ |(j : Rat) - m| := by
      have : (1 : Int) ≤ |(j : Int) - m| := Int.one_le_abs (by omega)
      exact_mod_cast this
    have htri : |(j : Rat) - m| ≤ |(j : Rat) - x| + |(m : Rat) - x| := by
      rw [abs_sub_comm (m : Rat) x]; exact abs_sub_le _ _ _
    exact ⟨by linarith, fun h _ => heven (by linarith)⟩

theorem roundHalfEven_le {num den b : Nat} (hden : 0 < den) (h : num ≤ b * den) :
    roundHalfEven num den ≤ b := by
  obtain ⟨hup, -, -⟩ := roundHalfEven_near num den hden
  by_contra! hgt
  have := Nat.mul_le_mul_right den (Nat.succ_le_of_lt hgt)
  rw [Nat.succ_mul] at this
  omega

theorem le_roundHalfEven {num den b : Nat} (hden : 0 < den) (h : b * den ≤ num) :
    b ≤ roundHalfEven num den := by
  obtain ⟨-, hlow, -⟩ := roundHalfEven_near num den hden
  by_contra! hlt
  have := Nat.mul_le_mul_right den (Nat.succ_le_of_lt hlt)
  rw [Nat.succ_mul] at this
  omega

/-- No magnitude of the format, the ones past infinity's included, is nearer to `x` units than `mag`; and
where another is as near, `mag` has an even significand. -/
def NearestMag (fmt : Fmt) (x : Rat) (mag : Nat) : Prop :=
  ∀ mag', |(unitsOf fmt mag : Rat) - x| ≤ |(unitsOf fmt mag' : Rat) - x| ∧
    (|(unitsOf fmt mag : Rat) - x| = |(unitsOf fmt mag' : Rat) - x| → mag' ≠ mag → mag % 2 = 0)

/-- The exponent `roundTo` rounds `num / den` units at. -/
def roundExp (fmt : Fmt) (num den : Nat) : Nat := Nat.log2 (num / den) - (fmt.prec - 1)

/-- The magnitude `roundTo` gives `num / den` units while there is no overflow. -/
def roundMag (fmt : Fmt) (num den : Nat) : Nat :=
  roundExp fmt num den * 2 ^ (fmt.prec - 1) + roundHalfEven num (den * 2 ^ roundExp fmt num den)

theorem roundTo_eq (fmt : Fmt) (neg : Bool) (num den : Nat) : roundTo fmt neg num den =
    if roundMag fmt num den < fmt.infMag then .fin neg (roundMag fmt num den) else .inf neg := rfl

/-- Above the least exponent the quotient has all the bits of the precision. -/
theorem le_of_roundExp_ne_zero (fmt : Fmt) (num den : Nat) (hden : 0 < den)
    (h : roundExp fmt num den ≠ 0) :
    2 ^ (fmt.prec - 1) * (den * 2 ^ roundExp fmt num den) ≤ num := by
  have hlog : Nat.log2 (num / den) = fmt.prec - 1 + roundExp fmt num den := by
    unfold roundExp at h ⊢; omega
  have hq : num / den ≠ 0 := by intro h0; simp [roundExp, h0] at h
  have hle := Nat.log2_self_le hq
  rw [hlog, Nat.le_div_iff_mul_le hden] at hle
  calc _ = 2 ^ (fmt.prec - 1 + roundExp fmt num den) * den := by ring
    _ ≤ num := hle

/-- The quotient lies below the power of two that ends its exponent. -/
theorem lt_of_roundExp (fmt : Fmt) (num den : Nat) (hden : 0 < den) :
    num < 2 * 2 ^ (fmt.prec - 1) * (den * 2 ^ roundExp fmt num den) := by
  have hlt : num / den < 2 ^ (fmt.prec - 1 + roundExp fmt num den + 1) :=
    lt_of_lt_of_le Nat.lt_log2_self
      (Nat.pow_le_pow_right (by decide) (by unfold roundExp; omega))
  calc num < 2 ^ (fmt.prec - 1 + roundExp fmt num den + 1) * den := (Nat.div_lt_iff_lt_mul hden).1 hlt
    _ = _ := by ring

/-- The rounded quotient is a significand of its exponent, the carry included. -/
theorem roundHalfEven_significand (fmt : Fmt) (num den : Nat) (hden : 0 < den) :
    let m := roundHalfEven num (den * 2 ^ roundExp fmt num den)
    m ≤ 2 * 2 ^ (fmt.prec - 1) ∧ (roundExp fmt num den = 0 ∨ 2 ^ (fmt.prec - 1) ≤ m) := by
  have hd : 0 < den * 2 ^ roundExp fmt num den := Nat.mul_pos hden (Nat.two_pow_pos _)
  exact ⟨roundHalfEven_le hd (lt_of_roundExp fmt num den hden).le,
    or_iff_not_imp_left.2 fun hk => le_roundHalfEven hd (le_of_roundExp_ne_zero fmt num den hden hk)⟩

/-- The value of the rounded magnitude. -/
theorem unitsOf_roundMag (fmt : Fmt) (num den : Nat) (hden : 0 < den) :
    unitsOf fmt (roundMag fmt num den)
      = roundHalfEven num (den * 2 ^ roundExp fmt num den) * 2 ^ roundExp fmt num den :=
  have ⟨hle, hge⟩ := roundHalfEven_significand fmt num den hden
  unitsOf_significand fmt _ _ hle hge

/-- The rounded magnitude is even where its significand is. -/
theorem roundMag_even (fmt : Fmt) (num den : Nat)
    (h : roundHalfEven num (den * 2 ^ roundExp fmt num den) % 2 = 0) : roundMag fmt num den % 2 = 0 := by
  have h2 : 2 ^ (fmt.prec - 1) % 2 = 0 := by cases fmt <;> decide
  simp [roundMag, Nat.add_mod, Nat.mul_mod, h, h2]

/-- No multiple of the exponent's unit is nearer to the quotient than the rounded magnitude. -/
theorem roundMag_nearest_multiple (fmt : Fmt) (num den j : Nat) (hden : 0 < den) :
    let k := roundExp fmt num den
    |(unitsOf fmt (roundMag fmt num den) : Rat) - num / den| ≤ |((j * 2 ^ k : Nat) : Rat) - num / den| ∧
    (|(unitsOf fmt (roundMag fmt num den) : Rat) - num / den| = |((j * 2 ^ k : Nat) : Rat) - num / den| →
      j * 2 ^ k ≠ unitsOf fmt (roundMag fmt num den) → roundMag fmt num den % 2 = 0) := by
  intro k
  have hk : (0 : Rat) < 2 ^ k := by positivity
  have hscale : ∀ n : Nat,
      |((n * 2 ^ k : Nat) : Rat) - num / den| = |(n : Rat) - num / (den * 2 ^ k : Nat)| * 2 ^ k := by
    intro n
    have : ((n * 2 ^ k : Nat) : Rat) - num / den = ((n : Rat) - num / (den * 2 ^ k : Nat)) * 2 ^ k := by
      push_cast
      field_simp
    rw [this, abs_mul, abs_of_pos hk]
  obtain ⟨hle, htie⟩ := roundHalfEven_nearest num (den * 2 ^ k) j (Nat.mul_pos hden (Nat.two_pow_pos _))
  rw [unitsOf_roundMag fmt num den hden, hscale, hscale]
  refine ⟨mul_le_mul_of_nonneg_right hle hk.le, fun heq hne => roundMag_even fmt num den ?_⟩
  exact htie (mul_right_cancel₀ hk.ne' heq) fun h => hne (by rw [h])

/-- `roundTo` takes the magnitude nearest to the quotient. -/
theorem roundMag_nearest (fmt : Fmt) (num den : Nat) (hden : 0 < den) :
    NearestMag fmt (num / den) (roundMag fmt num den) := by
  intro mag'
  by_cases hdvd : 2 ^ roundExp fmt num den ∣ unitsOf fmt mag'
  · obtain ⟨j, hj⟩ := exists_eq_mul_left_of_dvd hdvd
    rw [hj]
    obtain ⟨hle, htie⟩ := roundMag_nearest_multiple fmt num den j hden
    exact ⟨hle, fun heq hne => htie heq fun h => hne ((unitsOf_strictMono fmt).injective (hj.trans h))⟩
  · -- `mag'` has a lesser exponent, so the least value of the quotient's exponent is strictly nearer
    have hk : roundExp fmt num den ≠ 0 := by intro h; simp [h] at hdvd
    have hlt : unitsOf fmt mag' < 2 ^ (fmt.prec - 1) * 2 ^ roundExp fmt num den := by
      by_contra! h; exact hdvd (dvd_unitsOf_of_le fmt _ _ h)
    have hx : ((2 ^ (fmt.prec - 1) * 2 ^ roundExp fmt num den : Nat) : Rat) ≤ num / den := by
      rw [le_div_iff₀ (by exact_mod_cast hden)]
      have := le_of_roundExp_ne_zero fmt num den hden hk
      rw [Nat.mul_left_comm, Nat.mul_comm] at this
      exact_mod_cast this
    have hlt' : (unitsOf fmt mag' : Rat) < (2 ^ (fmt.prec - 1) * 2 ^ roundExp fmt num den : Nat) := by
      exact_mod_cast hlt
    have hfar := calc
      |(unitsOf fmt (roundMag fmt num den) : Rat) - num / den|
          ≤ |((2 ^ (fmt.prec - 1) * 2 ^ roundExp fmt num den : Nat) : Rat) - num / den| :=
        (roundMag_nearest_multiple fmt num den _ hden).1
      _ = num / den - (2 ^ (fmt.prec - 1) * 2 ^ roundExp fmt num den : Nat) := by
        rw [abs_sub_comm, abs_of_nonneg (sub_nonneg.2 hx)]
      _ < num / den - unitsOf fmt mag' := by linarith
      _ ≤ |(unitsOf fmt mag' : Rat) - num / den| := by rw [abs_sub_comm]; exact le_abs_self _
    exact ⟨hfar.le, fun heq => absurd heq hfar.ne⟩

end Sys2Proof
end

section
/-! PROOFS. Signs and overflow, and each operation of 00_scope R11 as one rounding of its exact result. -/

namespace Sys2Proof

/-! ### Overflow -/

theorem two_mul_le_of_abs_sub_le {a b x : Rat} (hab : a < b) (h : |a - x| ≤ |b - x|) : 2 * x ≤ a + b := by
  have := neg_abs_le (a - x)
  rcases abs_cases (b - x) with ⟨h', -⟩ | ⟨h', -⟩ <;> linarith

theorem le_two_mul_of_abs_sub_le {a b x : Rat} (hab : a < b) (h : |b - x| ≤ |a - x|) : a + b ≤ 2 * x := by
  have := le_abs_self (b - x)
  rcases abs_cases (a - x) with ⟨h', -⟩ | ⟨h', -⟩ <;> linarith

/-- The greatest finite magnitude is odd, so a tie with the power of two above it goes up. -/
theorem infMag_pred_odd (fmt : Fmt) : (fmt.infMag - 1) % 2 = 1 := by cases fmt <;> decide

/-- The nearest magnitude is a finite one exactly below the overflow bound. -/
theorem NearestMag.lt_infMag_iff {fmt : Fmt} {x : Rat} {mag : Nat} (h : NearestMag fmt x mag) :
    mag < fmt.infMag ↔ 2 * x < unitsOf fmt (fmt.infMag - 1) + unitsOf fmt fmt.infMag := by
  have hpos := infMag_pos fmt
  have hmono := unitsOf_strictMono fmt
  constructor
  · intro hlt
    have hle := two_mul_le_of_abs_sub_le (by exact_mod_cast hmono hlt) (h fmt.infMag).1
    have hmax : (unitsOf fmt mag : Rat) ≤ unitsOf fmt (fmt.infMag - 1) := by
      exact_mod_cast hmono.monotone (Nat.le_sub_one_of_lt hlt)
    refine lt_of_le_of_ne (by linarith) fun htie => ?_
    have hmag : mag = fmt.infMag - 1 := hmono.injective (by
      have : (unitsOf fmt mag : Rat) = unitsOf fmt (fmt.infMag - 1) := by linarith
      exact_mod_cast this)
    have hodd := infMag_pred_odd fmt
    have heven := (h fmt.infMag).2 (by
      have : (unitsOf fmt mag : Rat) - x = -(unitsOf fmt fmt.infMag - x) := by rw [hmag]; linarith
      rw [this, abs_neg]) hlt.ne'
    omega
  · intro hlt
    by_contra! hge
    have hle := le_two_mul_of_abs_sub_le
      (by exact_mod_cast hmono (show fmt.infMag - 1 < mag by omega)) (h (fmt.infMag - 1)).1
    have hmin : (unitsOf fmt fmt.infMag : Rat) ≤ unitsOf fmt mag := by exact_mod_cast hmono.monotone hge
    linarith

/-! ### Signed values -/

/-- A magnitude with a sign. -/
def signedRat (neg : Bool) (a : Rat) : Rat := if neg then -a else a

@[simp] theorem signedRat_false (a : Rat) : signedRat false a = a := rfl
@[simp] theorem signedRat_true (a : Rat) : signedRat true a = -a := rfl
@[simp] theorem signedRat_zero (n : Bool) : signedRat n 0 = 0 := by cases n <;> simp
@[simp] theorem signedRat_not (n : Bool) (a : Rat) : signedRat (!n) a = -signedRat n a := by
  cases n <;> simp

theorem signedRat_mul (m n : Bool) (a b : Rat) :
    signedRat m a * signedRat n b = signedRat (m ^^ n) (a * b) := by
  cases m <;> cases n <;> simp

theorem signedRat_div (m n : Bool) (a b : Rat) :
    signedRat m a / signedRat n b = signedRat (m ^^ n) (a / b) := by
  cases m <;> cases n <;> simp [neg_div, div_neg]

theorem signedRat_add (n : Bool) (a b : Rat) : signedRat n a + signedRat n b = signedRat n (a + b) := by
  cases n <;> simp; ring

theorem signedRat_neg (n : Bool) (a : Rat) : signedRat n (-a) = signedRat (!n) a := by
  cases n <;> simp

theorem signedRat_sub (n : Bool) (a b : Rat) : signedRat n a - signedRat n b = signedRat n (a - b) := by
  cases n <;> simp; ring

@[simp] theorem abs_signedRat (n : Bool) (a : Rat) : |signedRat n a| = |a| := by cases n <;> simp

theorem abs_signedRat_sub (n : Bool) (a b : Rat) : |signedRat n a - signedRat n b| = |a - b| := by
  rw [signedRat_sub, abs_signedRat]

/-- The distance of two values of other signs is the sum of their magnitudes. -/
theorem abs_signedRat_sub_of_ne {m n : Bool} {a b : Rat} (h : m ≠ n) (ha : 0 ≤ a) (hb : 0 ≤ b) :
    |signedRat m a - signedRat n b| = a + b := by
  obtain rfl : m = !n := Bool.eq_not_of_ne h
  rw [signedRat_not, ← abs_neg, neg_sub, sub_neg_eq_add, signedRat_add, abs_signedRat,
    abs_of_nonneg (by linarith), add_comm]

/-- A magnitude as a rational. -/
def magRat (fmt : Fmt) (mag : Nat) : Rat := unitsOf fmt mag / (2 ^ fmt.quantum : Nat)

theorem magRat_nonneg (fmt : Fmt) (mag : Nat) : 0 ≤ magRat fmt mag := by unfold magRat; positivity

@[simp] theorem magRat_zero (fmt : Fmt) : magRat fmt 0 = 0 := by simp [magRat]

theorem FloatVal.toRat?_fin (fmt : Fmt) (neg : Bool) (mag : Nat) :
    FloatVal.toRat? fmt (.fin neg mag) = some (signedRat neg (magRat fmt mag)) := rfl

/-- A datum with a rational value is finite, and that is its value. -/
theorem FloatVal.exists_fin_of_toRat? {fmt : Fmt} {x : FloatVal} {a : Rat} (h : x.toRat? fmt = some a) :
    ∃ neg mag, x = .fin neg mag ∧ a = signedRat neg (magRat fmt mag) := by
  cases x with
  | nan => cases h
  | inf neg => cases h
  | fin neg mag => exact ⟨neg, mag, rfl, (Option.some.inj h).symm⟩

/-! ### The nearest magnitude with a sign is the nearest datum -/

/-- The nearest magnitude, its distances taken in the value and not in units. -/
theorem NearestMag.magRat_le {fmt : Fmt} {x : Rat} {mag : Nat} (h : NearestMag fmt x mag) (mag' : Nat) :
    let y := x / (2 ^ fmt.quantum : Nat)
    |magRat fmt mag - y| ≤ |magRat fmt mag' - y| ∧
    (|magRat fmt mag - y| = |magRat fmt mag' - y| → mag' ≠ mag → mag % 2 = 0) := by
  have hQ : (0 : Rat) < (2 ^ fmt.quantum : Nat) := by positivity
  simp only [magRat, ← sub_div, abs_div, div_le_div_iff_of_pos_right (abs_pos.2 hQ.ne'),
    div_left_inj' (abs_pos.2 hQ.ne').ne']
  exact h mag'

/-- No finite datum of either sign is nearer to the signed value than the nearest magnitude with its sign. -/
theorem NearestMag.signed_le {fmt : Fmt} {x : Rat} {mag : Nat} (h : NearestMag fmt x mag) (hx : 0 ≤ x)
    (neg neg' : Bool) (mag' : Nat) :
    let q := signedRat neg (x / (2 ^ fmt.quantum : Nat))
    let v := signedRat neg (magRat fmt mag)
    let w := signedRat neg' (magRat fmt mag')
    |v - q| ≤ |w - q| ∧ (|v - q| = |w - q| → w ≠ v → mag % 2 = 0) := by
  intro q v w
  rw [show |v - q| = |magRat fmt mag - x / (2 ^ fmt.quantum : Nat)| from abs_signedRat_sub ..]
  rcases eq_or_ne neg' neg with rfl | hneg
  · rw [show |w - q| = |magRat fmt mag' - x / (2 ^ fmt.quantum : Nat)| from abs_signedRat_sub ..]
    obtain ⟨hle, htie⟩ := h.magRat_le mag'
    exact ⟨hle, fun heq hne => htie heq fun hm => hne (by simp only [v, w, hm])⟩
  · -- across zero: zero itself is at least as near as `w`, and it is another magnitude unless `w = v`
    have hy : 0 ≤ x / (2 ^ fmt.quantum : Nat) := by positivity
    have hw := magRat_nonneg fmt mag'
    rw [show |w - q| = _ from abs_signedRat_sub_of_ne hneg hw hy]
    obtain ⟨hle, htie⟩ := h.magRat_le 0
    rw [magRat_zero, zero_sub, abs_neg, abs_of_nonneg hy] at hle htie
    refine ⟨by linarith, fun heq hne => htie (by linarith) fun h0 => hne ?_⟩
    have hw0 : magRat fmt mag' = 0 := by linarith
    simp only [v, w, hw0, ← h0, magRat_zero, signedRat_zero]

end Sys2Proof

namespace Sys2Proof.Machine

/-! ### Rounding to nearest, ties to even -/

theorem overflowBound_eq (fmt : Fmt) : overflowBound fmt =
    ((unitsOf fmt (fmt.infMag - 1) : Rat) + unitsOf fmt fmt.infMag) / 2 / (2 ^ fmt.quantum : Nat) := by
  rw [overflowBound, Nat.cast_add]

theorem overflowBound_pos (fmt : Fmt) : 0 < overflowBound fmt := by
  have : (0 : Rat) < unitsOf fmt fmt.infMag := by
    exact_mod_cast (unitsOf_zero fmt) ▸ unitsOf_strictMono fmt (infMag_pos fmt)
  rw [overflowBound_eq]
  positivity

/-- The nearest magnitude is a finite one exactly where the value lies below the overflow bound. -/
theorem lt_infMag_iff_lt_overflowBound {fmt : Fmt} {x : Rat} {mag : Nat} (h : NearestMag fmt x mag) :
    mag < fmt.infMag ↔ x / (2 ^ fmt.quantum : Nat) < overflowBound fmt := by
  rw [h.lt_infMag_iff, overflowBound_eq,
    div_lt_div_iff_of_pos_right (by positivity : (0 : Rat) < (2 ^ fmt.quantum : Nat)),
    lt_div_iff₀ two_pos, mul_comm]

/-- `roundTo` rounds the signed quotient to nearest, ties to even. -/
theorem roundTo_nearestEven (fmt : Fmt) (neg : Bool) (num den : Nat) (hden : 0 < den) :
    NearestEven fmt (signedRat neg ((num / den : Rat) / (2 ^ fmt.quantum : Nat)))
      (roundTo fmt neg num den) := by
  have hnear := roundMag_nearest fmt num den hden
  have hx : (0 : Rat) ≤ num / den := by positivity
  have hy : (0 : Rat) ≤ num / den / (2 ^ fmt.quantum : Nat) := by positivity
  have hover := lt_infMag_iff_lt_overflowBound hnear
  rw [roundTo_eq]
  split
  case isTrue hlt =>
    refine ⟨hlt, by rwa [abs_signedRat, abs_of_nonneg hy, ← hover], _, rfl, fun z w _ hz => ?_⟩
    obtain ⟨neg', mag', -, rfl⟩ := FloatVal.exists_fin_of_toRat? hz
    exact hnear.signed_le hx neg neg' mag'
  case isFalse hge =>
    rw [hover, not_lt] at hge
    have hpos := lt_of_lt_of_le (overflowBound_pos fmt) hge
    refine ⟨by rwa [abs_signedRat, abs_of_nonneg hy], ?_⟩
    cases neg
    · simpa using hy
    · simpa using hpos

/-! ### The operations -/

theorem ofInt_nearestEven (fmt : Fmt) (i : Int) : NearestEven fmt i (ofInt fmt i) := by
  have h := roundTo_nearestEven fmt (decide (i < 0)) (i.natAbs * 2 ^ fmt.quantum) 1 one_pos
  have hQ : ((2 ^ fmt.quantum : Nat) : Rat) ≠ 0 := by positivity
  rw [Nat.cast_mul, Nat.cast_one, div_one, mul_div_cancel_right₀ _ hQ, Nat.cast_natAbs] at h
  have hi : (i : Rat) = signedRat (decide (i < 0)) (|i| : Int) := by
    rcases lt_or_ge i 0 with hi | hi
    · simp [hi, abs_of_neg hi]
    · simp [hi.not_gt, abs_of_nonneg hi]
  rw [hi]
  exact h

theorem fconst_nearestEven (fmt : Fmt) (neg : Bool) (num den : Nat) (hden : 0 < den) :
    NearestEven fmt (signedRat neg (num / den)) (fconst fmt neg num den) := by
  have h := roundTo_nearestEven fmt neg (num * 2 ^ fmt.quantum) den hden
  have hQ : ((2 ^ fmt.quantum : Nat) : Rat) ≠ 0 := by positivity
  rwa [Nat.cast_mul, mul_div_right_comm, mul_div_cancel_right₀ _ hQ] at h

theorem fmul_fin_nearestEven (fmt : Fmt) (na nb : Bool) (ma mb : Nat) :
    NearestEven fmt (signedRat na (magRat fmt ma) * signedRat nb (magRat fmt mb))
      (fmul fmt (.fin na ma) (.fin nb mb)) := by
  have h := roundTo_nearestEven fmt (na ^^ nb) (unitsOf fmt ma * unitsOf fmt mb) (2 ^ fmt.quantum)
    (Nat.two_pow_pos _)
  rwa [Nat.cast_mul, div_div, mul_div_mul_comm, ← magRat, ← magRat, ← signedRat_mul] at h

theorem fdiv_fin_nearestEven (fmt : Fmt) (na nb : Bool) (ma mb : Nat)
    (hb : signedRat nb (magRat fmt mb) ≠ 0) :
    NearestEven fmt (signedRat na (magRat fmt ma) / signedRat nb (magRat fmt mb))
      (fdiv fmt (.fin na ma) (.fin nb mb)) := by
  have hmb : mb ≠ 0 := by rintro rfl; simp at hb
  have hub : 0 < unitsOf fmt mb := by
    simpa using unitsOf_strictMono fmt (Nat.pos_of_ne_zero hmb)
  have h := roundTo_nearestEven fmt (na ^^ nb) (unitsOf fmt ma * 2 ^ fmt.quantum) (unitsOf fmt mb) hub
  have hquot : ((unitsOf fmt ma * 2 ^ fmt.quantum : Nat) : Rat) / unitsOf fmt mb / (2 ^ fmt.quantum : Nat)
      = magRat fmt ma / magRat fmt mb := by
    unfold magRat; push_cast; field_simp
  rw [hquot, ← signedRat_div] at h
  simpa [fdiv, hmb] using h

theorem zero_nearestEven (fmt : Fmt) : NearestEven fmt 0 (.fin false 0) := by
  have h := roundTo_nearestEven fmt false 0 1 one_pos
  have h0 : roundTo fmt false 0 1 = .fin false 0 := by
    simp [roundTo, roundHalfEven, infMag_pos]
  simpa [h0] using h

/-- A whole number of units, as a sum or a difference of data is. -/
theorem roundTo_one_nearestEven (fmt : Fmt) (neg : Bool) (u : Nat) :
    NearestEven fmt (signedRat neg ((u : Rat) / (2 ^ fmt.quantum : Nat))) (roundTo fmt neg u 1) := by
  simpa using roundTo_nearestEven fmt neg u 1 one_pos

theorem fadd_fin_nearestEven (fmt : Fmt) (na nb : Bool) (ma mb : Nat) :
    NearestEven fmt (signedRat na (magRat fmt ma) + signedRat nb (magRat fmt mb))
      (fadd fmt (.fin na ma) (.fin nb mb)) := by
  change NearestEven fmt _ (addFinite fmt na ma nb mb)
  unfold addFinite magRat
  simp only
  split
  case isTrue heq =>
    subst heq
    rw [signedRat_add, ← add_div, ← Nat.cast_add]
    exact roundTo_one_nearestEven ..
  case isFalse hne =>
    obtain rfl : nb = !na := Bool.eq_not_of_ne (Ne.symm hne)
    rw [signedRat_not, ← sub_eq_add_neg, signedRat_sub, ← sub_div]
    split
    case isTrue hlt =>
      rw [← Nat.cast_sub hlt.le]
      exact roundTo_one_nearestEven ..
    case isFalse hba =>
      split
      case isTrue hlt =>
        rw [← neg_sub, neg_div, signedRat_neg, ← Nat.cast_sub hlt.le]
        exact roundTo_one_nearestEven ..
      case isFalse hab =>
        rw [show unitsOf fmt ma = unitsOf fmt mb by omega, sub_self, zero_div, signedRat_zero]
        exact zero_nearestEven fmt

theorem fsub_fin_nearestEven (fmt : Fmt) (na nb : Bool) (ma mb : Nat) :
    NearestEven fmt (signedRat na (magRat fmt ma) - signedRat nb (magRat fmt mb))
      (fsub fmt (.fin na ma) (.fin nb mb)) := by
  rw [sub_eq_add_neg, ← signedRat_not]
  exact fadd_fin_nearestEven fmt na (!nb) ma mb

/-- Settles O33: each operation on finite data hands its exact result to `roundTo`, which takes the
nearest magnitude of an unbounded format, and the overflow bound lies where that leaves this one. -/
theorem floatOpsRoundToNearestEven : Obligations.FloatOpsRoundToNearestEven := by
  intro fmt
  refine ⟨fun x y a b _ _ ha hb => ?_, ofInt_nearestEven fmt, fun num den hden => ?_⟩
  · obtain ⟨na, ma, rfl, rfl⟩ := FloatVal.exists_fin_of_toRat? ha
    obtain ⟨nb, mb, rfl, rfl⟩ := FloatVal.exists_fin_of_toRat? hb
    exact ⟨fadd_fin_nearestEven .., fsub_fin_nearestEven .., fmul_fin_nearestEven ..,
      fdiv_fin_nearestEven fmt na nb ma mb⟩
  · exact ⟨fconst_nearestEven fmt false num den hden, fconst_nearestEven fmt true num den hden⟩

end Sys2Proof.Machine
end

section
/-! PROOFS. The power function, one lemma per branch. -/

namespace Sys2Proof

/-! ### The power function's defined cases (00_scope R14) -/

theorem FloatVal.atLeastZero_ne_nan (x : FloatVal) : x.atLeastZero ≠ .nan := by
  cases x with
  | nan => exact nofun
  | inf neg => exact nofun
  | fin neg mag =>
    simp only [atLeastZero]
    split <;> nofun

@[simp] theorem FloatVal.ltZero_atLeastZero (x : FloatVal) : x.atLeastZero.ltZero = false := by
  cases x with
  | nan => rfl
  | inf neg => rfl
  | fin neg mag =>
    simp only [atLeastZero]
    split
    case isTrue h => simp [ltZero, h]
    case isFalse h => rfl

/-- One is `+1` exactly, a finite datum above zero. -/
theorem ofInt_one (fmt : Fmt) : ∃ mag, mag ≠ 0 ∧ ofInt fmt 1 = .fin false mag := by
  cases fmt
  · exact ⟨0x3F800000, by decide, by decide +kernel⟩
  · exact ⟨0x3FF0000000000000, by decide, by decide +kernel⟩

theorem ofInt_one_ne_nan (fmt : Fmt) : ofInt fmt 1 ≠ .nan := by
  obtain ⟨mag, -, h⟩ := ofInt_one fmt
  rw [h]; exact nofun

@[simp] theorem ofInt_one_ltZero (fmt : Fmt) : (ofInt fmt 1).ltZero = false := by
  obtain ⟨mag, -, h⟩ := ofInt_one fmt
  rw [h]; rfl

theorem ne_ofInt_one_of_isZero {fmt : Fmt} {x : FloatVal} (hx : x.isZero = true) : x ≠ ofInt fmt 1 := by
  obtain ⟨mag, hmag, h⟩ := ofInt_one fmt
  rintro rfl
  simp [h, FloatVal.isZero, hmag] at hx

section Cases

variable {fmt : Fmt} {x y : FloatVal}

theorem fpow_one (hy : y.finite = true) : fpow fmt (ofInt fmt 1) y = ofInt fmt 1 := by
  simp [fpow, hy]

theorem fpow_zero_of_pos (hx : x.isZero = true) (hy : y.finite = true) (hy0 : y.isZero = false)
    (hpos : y.ltZero = false) (hodd : y.isOddInteger fmt = false) : fpow fmt x y = .fin false 0 := by
  simp [fpow, ne_ofInt_one_of_isZero hx, hx, hy, hy0, hpos, hodd]

theorem fpow_zero_of_neg (hx : x.isZero = true) (hneg : y.ltZero = true) :
    ∃ neg, fpow fmt x y = .inf neg := by
  simp [fpow, ne_ofInt_one_of_isZero hx, hx, hneg]

/-- Of a positive base other than one only P2 is known. -/
theorem fpow_pos (hone : x ≠ ofInt fmt 1) (hfin : x.finite = true) (hx0 : x.isZero = false)
    (hpos : x.ltZero = false) (hy : y.finite = true) : ∃ r, fpow fmt x y = FloatVal.atLeastZero r := by
  simp [fpow, hone, hfin, hx0, hpos, hy]

theorem fpow_pos_nonneg (hfin : x.finite = true) (hx0 : x.isZero = false) (hpos : x.ltZero = false)
    (hy : y.finite = true) : fpow fmt x y ≠ .nan ∧ (fpow fmt x y).ltZero = false := by
  by_cases hone : x = ofInt fmt 1
  · rw [hone, fpow_one hy]
    exact ⟨ofInt_one_ne_nan fmt, ofInt_one_ltZero fmt⟩
  · obtain ⟨r, hr⟩ := fpow_pos hone hfin hx0 hpos hy
    rw [hr]
    exact ⟨r.atLeastZero_ne_nan, r.ltZero_atLeastZero⟩

end Cases

/-- Settles O39, by the branch of `fpow` that each property stands in. -/
theorem powerHasNamedProperties : Obligations.PowerHasNamedProperties :=
  fun _ _ _ => ⟨fpow_one, fpow_pos_nonneg, fpow_zero_of_pos, fpow_zero_of_neg⟩

end Sys2Proof
end

section
/-! PROOFS. Everything a command can do, said once: `exec_cases` and `exec_next_cases`. -/

namespace Sys2Proof.Machine

/-! ### What executing a command can do -/

/-- `t` is `u` with its command ended: by a response after at most a register write, or by an error. -/
def EndsAt (u t : State) : Prop :=
  (∃ e v, t = State.respond { u with eng := e } v) ∨ ∃ e, t = u.raise e

theorem EndsAt.respond (u : State) (v : BitVec 64) : EndsAt u (u.respond v) := .inl ⟨u.eng, v, rfl⟩

theorem EndsAt.write (u : State) (e : Engine) (v : BitVec 64) :
    EndsAt u (State.respond { u with eng := e } v) := .inl ⟨e, v, rfl⟩

theorem EndsAt.raise (u : State) (e : Status) : EndsAt u (u.raise e) := .inr ⟨e, rfl⟩

theorem EndsAt.ite {u a b : State} {c : Prop} [Decidable c] (ha : EndsAt u a) (hb : EndsAt u b) :
    EndsAt u (if c then a else b) := by
  split
  · exact ha
  · exact hb

section EndsAt

variable {u t : State} (h : EndsAt u t)
include h

theorem EndsAt.responses : ∃ r, t.responses = u.responses ++ [r] := by
  obtain ⟨e, v, rfl⟩ | ⟨e, rfl⟩ := h <;> exact ⟨_, rfl⟩

theorem EndsAt.cw : t.cw = none := by obtain ⟨e, v, rfl⟩ | ⟨e, rfl⟩ := h <;> rfl
theorem EndsAt.phase : t.phase = u.phase := by obtain ⟨e, v, rfl⟩ | ⟨e, rfl⟩ := h <;> rfl
theorem EndsAt.params : t.params = u.params := by obtain ⟨e, v, rfl⟩ | ⟨e, rfl⟩ := h <;> rfl
theorem EndsAt.image : t.image = u.image := by obtain ⟨e, v, rfl⟩ | ⟨e, rfl⟩ := h <;> rfl

end EndsAt

theorem finishAltitude_endsAt (r : FReg) (x : Option FloatVal) (s : State) :
    EndsAt s (finishAltitude r x s) := by
  obtain ⟨-, h⟩ | ⟨v, -, h⟩ := finishAltitude_cases r x s
  · rw [h]; exact .raise ..
  · rw [h]; exact .write ..

theorem loadRaw_endsAt (ch : Channel) (s : State) :
    EndsAt (s.afterRead (dataAddr ch) 3) (loadRaw ch s) := by
  obtain ⟨-, h⟩ | ⟨b, -, h⟩ := loadRaw_cases ch s
  · rw [h]; exact .raise ..
  · rw [h]; exact .write ..

/-- One step of `LDCAL` ends it after a read, or leaves it executing after a read or a sleep. -/
theorem ldcalStep_ends_or_waits (s : State) :
    (∃ a n, EndsAt (s.afterRead a n).leaveLdcal (ldcalStep s))
    ∨ ∃ u p, ldcalStep s = State.stillExecuting u p ∧ (u = s.sleep 20 ∨ ∃ a n, u = s.afterRead a n) := by
  obtain ⟨-, h⟩ | ⟨-, h⟩ | ⟨-, h⟩ := ldcalStep_cases s <;> rw [h]
  · obtain ⟨-, h⟩ | ⟨b, -, h⟩ := pollCoefReady_cases s <;> rw [h]
    · exact .inl ⟨_, _, .raise ..⟩
    · exact .inr ⟨_, _, rfl, .inr ⟨_, _, rfl⟩⟩
  · exact .inr ⟨_, _, rfl, .inl rfl⟩
  · obtain ⟨-, h⟩ | ⟨b, -, h⟩ := loadBlock_cases s <;> rw [h]
    · exact .inl ⟨_, _, .raise ..⟩
    · exact .inl ⟨_, _, .write ..⟩

/-- All a command can do: end where it stands; end after one read; or, `LDCAL` alone, make one step of its
own. -/
theorem exec_cases (i : Instr) (s : State) :
    (usesBus i = false ∧ ∃ t, exec i s = .next t ∧ EndsAt s t)
    ∨ (i ≠ .ldcal ∧ ∃ a n t, exec i s = .next t ∧ EndsAt (s.afterRead a n) t)
    ∨ (i = .ldcal ∧ exec i s = .next (ldcalStep s)) := by
  cases i with
  | sext12 v => exact .inl ⟨rfl, _, rfl, .respond ..⟩
  | sext16 v => exact .inl ⟨rfl, _, rfl, .respond ..⟩
  | sext20 v => exact .inl ⟨rfl, _, rfl, .respond ..⟩
  | sext24 v => exact .inl ⟨rfl, _, rfl, .respond ..⟩
  | ldcal => exact .inr (.inr ⟨rfl, rfl⟩)
  | rdcoef k =>
    refine .inl ⟨rfl, _, rfl, ?_⟩
    split
    · exact .raise ..
    · exact .ite (.respond ..) (.raise ..)
  | setos ch level => exact .inl ⟨rfl, _, rfl, .write ..⟩
  | setraw ch v => exact .inl ⟨rfl, _, rfl, .write ..⟩
  | ldrawp => exact .inr (.inl ⟨by decide, _, _, _, rfl, loadRaw_endsAt .pressure s⟩)
  | ldrawt => exact .inr (.inl ⟨by decide, _, _, _, rfl, loadRaw_endsAt .temperature s⟩)
  | rdraw ch => exact .inl ⟨rfl, _, rfl, .ite (.respond ..) (.raise ..)⟩
  | compt => exact .inl ⟨rfl, _, rfl, .ite (.raise ..) (.ite (.raise ..) (.write ..))⟩
  | compp => exact .inl ⟨rfl, _, rfl, .ite (.raise ..) (.ite (.raise ..) (.write ..))⟩
  | alt => exact .inl ⟨rfl, _, rfl, .ite (.raise ..) (finishAltitude_endsAt ..)⟩
  | sealvl => exact .inl ⟨rfl, _, rfl, .ite (.raise ..) (finishAltitude_endsAt ..)⟩
  | wrf r =>
    refine .inl ⟨rfl, _, rfl, ?_⟩
    split
    · exact .raise ..
    · exact .write ..
  | rdf r =>
    refine .inl ⟨rfl, _, rfl, ?_⟩
    split
    · exact .raise ..
    · exact .ite (.respond ..) (.raise ..)
  | rdstat => exact .inl ⟨rfl, _, rfl, .respond ..⟩

/-- Every command answers a next state: no command stops the machine. -/
theorem exec_total (i : Instr) (s : State) : ∃ t, exec i s = .next t := by
  obtain ⟨-, t, ht, -⟩ | ⟨-, _, _, t, ht, -⟩ | ⟨-, ht⟩ := exec_cases i s <;> exact ⟨_, ht⟩

/-- All a command can have done that answered this state, the two ways of `LDCAL` apart. -/
theorem exec_next_cases {i : Instr} {s t : State} (h : exec i s = .next t) :
    (usesBus i = false ∧ EndsAt s t)
    ∨ (i ≠ .ldcal ∧ ∃ a n, EndsAt (s.afterRead a n) t)
    ∨ (i = .ldcal ∧ ∃ a n, EndsAt (s.afterRead a n).leaveLdcal t)
    ∨ (i = .ldcal ∧ ∃ u p, t = State.stillExecuting u p ∧ (u = s.sleep 20 ∨ ∃ a n, u = s.afterRead a n)) := by
  obtain ⟨hbus, t', ht, hend⟩ | ⟨hi, a, n, t', ht, hend⟩ | ⟨hi, ht⟩ := exec_cases i s <;>
    obtain rfl := Host.Outcome.next.inj (ht.symm.trans h)
  · exact .inl ⟨hbus, hend⟩
  · exact .inr (.inl ⟨hi, a, n, hend⟩)
  · exact .inr (.inr ((ldcalStep_ends_or_waits s).imp (⟨hi, ·⟩) (⟨hi, ·⟩)))

/-- A command ends with one response or, `LDCAL` alone, is still executing. -/
theorem exec_ends_or_waits {i : Instr} {s t : State} (h : exec i s = .next t) :
    (∃ r, t.responses = s.responses ++ [r] ∧ t.cw = none)
    ∨ (i = .ldcal ∧ t.responses = s.responses ∧ t.cw = some (encode .ldcal) ∧ t.eng = s.eng) := by
  obtain ⟨-, hend⟩ | ⟨-, a, n, hend⟩ | ⟨-, a, n, hend⟩ | ⟨hi, u, p, rfl, hu⟩ := exec_next_cases h
  · exact .inl (hend.responses.imp fun _ hr => ⟨hr, hend.cw⟩)
  · exact .inl (hend.responses.imp fun _ hr => ⟨hr, hend.cw⟩)
  · exact .inl (hend.responses.imp fun _ hr => ⟨hr, hend.cw⟩)
  · obtain rfl | ⟨a, n, rfl⟩ := hu <;> exact .inr ⟨hi, rfl, rfl, rfl⟩

theorem exec_params_image {i : Instr} {s t : State} (h : exec i s = .next t) :
    t.params = s.params ∧ t.image = s.image := by
  obtain ⟨-, hend⟩ | ⟨-, a, n, hend⟩ | ⟨-, a, n, hend⟩ | ⟨-, u, p, rfl, hu⟩ := exec_next_cases h
  · exact ⟨hend.params, hend.image⟩
  · exact ⟨hend.params, hend.image⟩
  · exact ⟨hend.params, hend.image⟩
  · obtain rfl | ⟨a, n, rfl⟩ := hu <;> exact ⟨rfl, rfl⟩

end Sys2Proof.Machine
end

section
/-! PROOFS. Everything a host move can do, said once, and what every step keeps. -/

namespace Sys2Proof.Machine

/-! ### The port across a command -/

/-- A command other than `LDCAL` that begins at its beginning ends there too; `LDCAL` may stay at the
port past it. -/
theorem exec_portOk {i : Instr} {s t : State} (hp : i = .ldcal ∨ s.phase = .poll)
    (h : exec i s = .next t) : t.PortOk := by
  obtain ⟨hbus, hend⟩ | ⟨hi, a, n, hend⟩ | ⟨-, a, n, hend⟩ | ⟨-, u, p, rfl, -⟩ := exec_next_cases h
  · have hi : i ≠ .ldcal := by rintro rfl; cases hbus
    exact .inl (hend.phase.trans (hp.resolve_left hi))
  · exact .inl (hend.phase.trans (hp.resolve_left hi))
  · exact .inl hend.phase
  · exact .inr rfl

/-! ### What a host duty leaves alone -/

/-- The part of the state that no host duty touches: the parameters, the engine, its port and the image. -/
structure EngineSide where
  params : Params
  eng : Engine
  cw : Option Word
  phase : LdcalPhase
  din : Pattern
  responses : List Response
  rst : List Bool
  image : List Host.Cell

def State.engineSide (s : State) : EngineSide :=
  ⟨s.params, s.eng, s.cw, s.phase, s.din, s.responses, s.rst, s.image⟩

@[simp] theorem State.engineSide_afterRead (s : State) (a : BitVec 7) (n : Nat) :
    (s.afterRead a n).engineSide = s.engineSide := rfl
@[simp] theorem State.engineSide_afterWrite (s : State) (a : BitVec 7) (v : Byte) :
    (s.afterWrite a v).engineSide = s.engineSide := rfl
@[simp] theorem State.engineSide_sleep (s : State) (ms : Nat) :
    (s.sleep ms).engineSide = s.engineSide := rfl
@[simp] theorem State.engineSide_logHost (s : State) (r : HostResult) :
    (s.logHost r).engineSide = s.engineSide := rfl
@[simp] theorem State.engineSide_queue (s : State) (as : List HostAction) :
    (s.queue as).engineSide = s.engineSide := rfl
@[simp] theorem State.engineSide_commitConfig (s : State) (ch : Channel) (c : ChannelConfig) :
    (s.commitConfig ch c).engineSide = s.engineSide := by cases ch <;> rfl
@[simp] theorem State.engineSide_setPending (s : State) (as : List HostAction) :
    ({ s with pending := as } : State).engineSide = s.engineSide := rfl

@[simp] theorem engineSide_hostRead (a : BitVec 7) (s : State) :
    (hostRead a s).engineSide = s.engineSide := by
  unfold hostRead
  split <;> simp

@[simp] theorem engineSide_hostWrite (a : BitVec 7) (v : Byte) (s : State) :
    (hostWrite a v s).engineSide = s.engineSide := by
  unfold hostWrite
  split <;> simp

theorem engineSide_hostModify (a : BitVec 7) (f : Byte → Byte) {after : State → State}
    (hafter : ∀ u, (after u).engineSide = u.engineSide) (s : State) :
    (hostModify a f after s).engineSide = s.engineSide := by
  obtain ⟨-, h⟩ | ⟨b, -, ⟨-, h⟩ | ⟨-, h⟩⟩ := hostModify_cases a f after s <;> simp [h, hafter]

theorem engineSide_hostWait (mask : Byte) (ms : Nat) (a : HostAction) {after : State → State}
    (hafter : ∀ u, (after u).engineSide = u.engineSide) (s : State) :
    (hostWait mask ms a after s).engineSide = s.engineSide := by
  obtain ⟨-, h⟩ | ⟨b, -, ⟨-, h⟩ | ⟨-, h⟩⟩ := hostWait_cases mask ms a after s <;> simp [h, hafter]

@[simp] theorem engineSide_hostSetMode (mode : OperatingMode) (s : State) :
    (hostSetMode mode s).engineSide = s.engineSide := by
  unfold hostSetMode
  split
  · simp
  · refine engineSide_hostModify _ _ ?_ s
    exact fun _ => rfl

@[simp] theorem engineSide_hostConfigure (ch : Channel) (rate level : BitVec 3) (s : State) :
    (hostConfigure ch rate level s).engineSide = s.engineSide := by
  unfold hostConfigure
  split
  · simp
  · simp only
    split
    · simp
    · refine (engineSide_hostModify _ _ ?_ _).trans ?_
      · exact fun _ => rfl
      · simp

@[simp] theorem engineSide_hostSensorReset (s : State) :
    (hostSensorReset s).engineSide = s.engineSide := by
  unfold hostSensorReset
  split <;> simp

@[simp] theorem engineSide_hostCheckId (s : State) : (hostCheckId s).engineSide = s.engineSide := by
  unfold hostCheckId
  split
  · simp
  · simp only
    split <;> rfl

/-- All a host move can do: nothing, present a command, or a duty that leaves the engine's side alone. -/
theorem hostMove_cases {s t : State} (h : hostMove s = .next t) :
    (s.pending = [] ∧ t = s)
    ∨ (∃ w d rest, s.pending = .command w d :: rest ∧ t = State.present { s with pending := rest } w d)
    ∨ t.engineSide = s.engineSide := by
  unfold hostMove at h
  split at h
  case h_1 hp => cases h; exact .inl ⟨hp, rfl⟩
  case h_2 a rest hp =>
    cases a with
    | command w d => cases h; exact .inr (.inl ⟨w, d, rest, hp, rfl⟩)
    | readReg addr =>
      simp only at h
      split at h <;> cases h
      exact .inr (.inr (by simp))
    | writeReg addr v =>
      simp only at h
      split at h <;> cases h
      exact .inr (.inr (by simp))
    | setMode mode => cases h; exact .inr (.inr (by simp))
    | configureChannel ch rate level => cases h; exact .inr (.inr (by simp))
    | sensorReset => cases h; exact .inr (.inr (by simp))
    | waitSensorReady =>
      cases h
      refine .inr (.inr (engineSide_hostWait _ _ _ ?_ _))
      exact fun _ => rfl
    | waitMeasurement ms =>
      cases h; exact .inr (.inr (engineSide_hostWait _ _ _ (fun _ => rfl) _))
    | checkProductId => cases h; exact .inr (.inr (by simp))

theorem hostMove_params_image {s t : State} (h : hostMove s = .next t) :
    t.params = s.params ∧ t.image = s.image := by
  obtain ⟨-, rfl⟩ | ⟨w, d, rest, -, rfl⟩ | hside := hostMove_cases h
  · exact ⟨rfl, rfl⟩
  · exact ⟨rfl, rfl⟩
  · exact ⟨congrArg EngineSide.params hside, congrArg EngineSide.image hside⟩

/-- With the port free the machine is at the beginning of whatever comes next. -/
theorem hostMove_portOk {s t : State} (hs : s.PortOk) (hcw : s.cw = none) (h : hostMove s = .next t) :
    t.PortOk := by
  have hpoll : s.phase = .poll := hs.resolve_right (by simp [hcw])
  obtain ⟨-, rfl⟩ | ⟨w, d, rest, -, rfl⟩ | hside := hostMove_cases h
  · exact hs
  · exact .inl rfl
  · exact .inl ((congrArg EngineSide.phase hside).trans hpoll)

/-! ### The step while `RST` is quiet -/

theorem step_of_decode {s : State} {w : Word} {i : Instr} (hr : s.rstAsserted = false)
    (hcw : s.cw = some w) (hw : decode w = .ok i) : step s = exec i s.tickRst := by
  simp [step, hr, hcw, hw]

theorem step_of_port_free {s : State} (hr : s.rstAsserted = false) (hcw : s.cw = none) :
    step s = hostMove s.tickRst := by
  simp [step, hr, hcw]

theorem hostMove_command {s : State} {w : Word} {d : Pattern} {rest : List HostAction}
    (h : s.pending = .command w d :: rest) :
    hostMove s = .next (State.present { s with pending := rest } w d) := by
  simp [hostMove, h]

theorem hostMove_idle {s : State} (h : s.pending = []) : hostMove s = .next s := by
  simp [hostMove, h]

theorem decode_encode_ldcal : decode (encode .ldcal) = .ok .ldcal := by decide

theorem step_portOk {s t : State} (hs : s.PortOk) (h : step s = .next t) : t.PortOk := by
  obtain ⟨-, rfl⟩ | ⟨-, w, i, hcw, hw, hx⟩ | ⟨-, w, e, hcw, hw, rfl⟩ | ⟨-, hcw, hm⟩ := step_cases s t h
  · exact .inl rfl
  · refine exec_portOk (s := s.tickRst) (hs.symm.imp_left fun hl => ?_) hx
    obtain rfl : w = encode .ldcal := by simpa [hcw] using hl
    simpa [hw] using decode_encode_ldcal
  · refine .inl (hs.resolve_right fun hl => ?_)
    obtain rfl : w = encode .ldcal := by simpa [hcw] using hl
    simp [decode_encode_ldcal] at hw
  · exact hostMove_portOk (s := s.tickRst) hs hcw hm

/-- Settles O6: the branch of `step` for a legal word. -/
theorem stepRunsDecodedCommand : Obligations.StepRunsDecodedCommand :=
  fun _ _ _ => step_of_decode

/-- Settles O7: a command's cases end it with one response or leave `LDCAL` executing; and each case of a
step keeps the port's invariant. -/
theorem oneResponseOrLdcalWaits : Obligations.OneResponseOrLdcalWaits :=
  ⟨fun i s => (exec_total i s).imp fun _ h => ⟨h, exec_ends_or_waits h⟩, fun _ _ => step_portOk⟩

/-- Settles O10, by the cases of a step. -/
theorem parametersNeverChange : Obligations.ParametersNeverChange := by
  intro s t h
  obtain ⟨-, rfl⟩ | ⟨-, w, i, -, -, hx⟩ | ⟨-, w, e, -, -, rfl⟩ | ⟨-, -, hm⟩ := step_cases s t h
  · exact ⟨rfl, rfl⟩
  · exact exec_params_image (s := s.tickRst) hx
  · exact ⟨rfl, rfl⟩
  · exact hostMove_params_image (s := s.tickRst) hm

/-- Settles O60: with the port free a step is the host's move, and its cases are three. -/
theorem hostPresentsCommandsAndLeavesEngineAlone :
    Obligations.HostPresentsCommandsAndLeavesEngineAlone := by
  refine ⟨fun s w d rest hr hcw hp => ?_, fun s hr hcw hp => ?_, fun s t hr hcw h => ?_⟩
  · rw [step_of_port_free hr hcw, hostMove_command (s := s.tickRst) hp]
    rfl
  · rw [step_of_port_free hr hcw, hostMove_idle (s := s.tickRst) hp]
    rfl
  · rw [step_of_port_free hr hcw] at h
    obtain ⟨-, rfl⟩ | ⟨w, d, rest, hp, rfl⟩ | hside := hostMove_cases h
    · exact ⟨rfl, rfl, .inl hcw⟩
    · exact ⟨rfl, rfl, .inr ⟨w, d, by rw [← s.tickRst_pending, hp]; rfl, rfl, rfl⟩⟩
    · exact ⟨congrArg EngineSide.eng hside, congrArg EngineSide.responses hside,
        .inl ((congrArg EngineSide.cw hside).trans hcw)⟩

/-! ### The reset state -/

theorem Config.scale_pos (i : Fin 8) : 0 < (Config.scale[i]).toNat := by
  have hne : Config.scale[i] ≠ 0#24 := by
    simp only [Config.scale, Fin.getElem_fin, Vector.getElem_ofFn]
    split
    · decide
    · assumption
  exact Nat.pos_of_ne_zero fun h => hne (BitVec.eq_of_toNat_eq h)

theorem reset_admissible : State.reset.params.Admissible :=
  fun level => Config.scale_pos ⟨level.toNat, level.isLt⟩

theorem resetWith_patternsFit (p : Params) : (State.resetWith p).PatternsFit := by
  refine ⟨fun r => ?_, Fmt.low_low .., fun r hr => by cases hr⟩
  cases r with
  | t => exact Fmt.low_low ..
  | p => exact Fmt.low_low ..
  | a => exact Fmt.low_low ..
  | s => exact Fmt.low_toBits _ _ (fconst_wf ..)
  | h => exact Fmt.low_low ..

/-- Settles O13: the scale table's zeros were replaced, every container was cut to `FLEN` bits, and no
command has run. -/
theorem goodStateAtReset : Obligations.GoodStateAtReset :=
  ⟨reset_admissible, rfl, resetWith_patternsFit _, .inl rfl, rfl⟩

end Sys2Proof.Machine
end

section
/-! PROOFS. What a command can write and answer, said once: `exec_engine_cases`. -/

namespace Sys2Proof

/-! ### Patterns of `FLEN` bits -/

@[simp] theorem Fmt.low_zero (fmt : Fmt) : fmt.low 0#64 = 0#64 := by cases fmt <;> rfl

@[simp] theorem Fmt.low_setWidth_32 (fmt : Fmt) (w : BitVec 32) :
    fmt.low (w.setWidth 64) = w.setWidth 64 := by
  cases fmt
  · simp [Fmt.low]
  · rfl

end Sys2Proof

namespace Sys2Proof.Machine

/-! ### Results fit the format -/

@[simp] theorem low_doutInt (fmt : Fmt) (i : Int) : fmt.low (doutInt i) = doutInt i :=
  Fmt.low_setWidth_32 ..

theorem compTemp_wf (fmt : Fmt) (raw : Int) (K : Nat) (c0 c1 : Int) :
    (compTemp fmt raw K c0 c1).wf fmt = true := fadd_wf ..

theorem compPres_wf (fmt : Fmt) (rawP rawT : Int) (KP KT : Nat) (c : Coefs) :
    (compPres fmt rawP rawT KP KT c).wf fmt = true := fadd_wf ..

theorem altValue_wf (fmt : Fmt) (p s : FloatVal) : (altValue fmt p s).wf fmt = true := fmul_wf ..

theorem seaValue_wf (fmt : Fmt) (p h : FloatVal) : (seaValue fmt p h).wf fmt = true := fmul_wf ..

/-! ### `ERR` apart from the registers -/

@[simp] theorem Engine.freg_setErr (e : Engine) (x : Status) (r : FReg) :
    ({ e with err := x } : Engine).freg r = e.freg r := by cases r <;> rfl
@[simp] theorem Engine.raw_setErr (e : Engine) (x : Status) (ch : Channel) :
    ({ e with err := x } : Engine).raw ch = e.raw ch := by cases ch <;> rfl
@[simp] theorem Engine.os_setErr (e : Engine) (x : Status) (ch : Channel) :
    ({ e with err := x } : Engine).os ch = e.os ch := by cases ch <;> rfl

/-! ### What a command that answers `OK` has written -/

/-- The load of a channel's raw register (10_state R27). -/
def loadOf : Channel → Instr
  | .pressure => .ldrawp
  | .temperature => .ldrawt

/-- The value that a command computes for a floating register (10_state R30): the command, the register
and the value. -/
inductive Computes (s : State) : Instr → FReg → FloatVal → Prop
  | compt : Computes s .compt .t (compTemp s.params.fmt s.eng.rawT.val.toInt (s.scaleOf .temperature)
      s.eng.coefs.c0.toInt s.eng.coefs.c1.toInt)
  | compp : Computes s .compp .p (compPres s.params.fmt s.eng.rawP.val.toInt s.eng.rawT.val.toInt
      (s.scaleOf .pressure) (s.scaleOf .temperature) s.eng.coefs)
  | alt {v} (h : altChecked s.params.fmt (s.floatOf .p) (s.floatOf .s) = some v) : Computes s .alt .a v
  | sealvl {v} (h : seaChecked s.params.fmt (s.floatOf .p) (s.floatOf .h) = some v) :
      Computes s .sealvl .s v

/-- The engine and the `DOUT` that a command begun in `s` can leave when it answers `OK`: nothing written,
or the one register that it is there to write. -/
inductive Answers (s : State) : Instr → Engine → BitVec 64 → Prop
  | read {i v} (hfit : s.params.fmt.low v = v) : Answers s i s.eng v
  | ldcal (c : Coefs) : Answers s .ldcal (s.eng.setCoefs c) 0#64
  | setos (ch : Channel) (l : BitVec 3) : Answers s (.setos ch l) (s.eng.setOs ch l) 0#64
  | setraw (ch : Channel) (v w : BitVec 24) : Answers s (.setraw ch v) (s.eng.setRaw ch w) 0#64
  | load (ch : Channel) (w : BitVec 24) : Answers s (loadOf ch) (s.eng.setRaw ch w) 0#64
  | compute {i r x} (h : Computes s i r x) : Answers s i (s.eng.setFreg r (x.toBits s.params.fmt)) 0#64
  | wrf {n r} (h : FReg.ofSel n = some r) :
      Answers s (.wrf n) (s.eng.setFreg r (s.params.fmt.low s.din)) 0#64

/-- `t` ends the command `i` begun in `s`: with `OK` and what `Answers` allows, or with an error, which
moves nothing of the engine but `ERR`. -/
def Ends (s : State) (i : Instr) (t : State) : Prop :=
  (∃ v, Answers s i t.eng v ∧ t.responses = s.responses ++ [⟨.ok, v⟩])
  ∨ ∃ x, t.eng = { s.eng with err := s.eng.err.first x } ∧ t.responses = s.responses ++ [⟨x, 0#64⟩]

theorem Ends.raise (s : State) (i : Instr) (x : Status) : Ends s i (s.raise x) := .inr ⟨x, rfl, rfl⟩

theorem Ends.respond {s : State} (i : Instr) {v : BitVec 64} (hfit : s.params.fmt.low v = v) :
    Ends s i (s.respond v) := .inl ⟨v, .read hfit, rfl⟩

theorem Ends.write {s : State} {i : Instr} {e : Engine} {v : BitVec 64} (h : Answers s i e v) :
    Ends s i (State.respond { s with eng := e } v) := .inl ⟨v, h, rfl⟩

theorem Ends.ite {s a b : State} {i : Instr} {c : Prop} [Decidable c] (ha : Ends s i a) (hb : Ends s i b) :
    Ends s i (if c then a else b) := by
  split
  · exact ha
  · exact hb

theorem finishAltitude_ends {s : State} {i : Instr} {r : FReg} {x : Option FloatVal}
    (h : ∀ v, x = some v → Computes s i r v) : Ends s i (finishAltitude r x s) := by
  obtain ⟨-, hx⟩ | ⟨v, hv, hx⟩ := finishAltitude_cases r x s <;> rw [hx]
  · exact .raise ..
  · exact .write (.compute (h v hv))

theorem loadRaw_ends (ch : Channel) (s : State) : Ends s (loadOf ch) (loadRaw ch s) := by
  obtain ⟨-, h⟩ | ⟨b, -, h⟩ := loadRaw_cases ch s <;> rw [h]
  · exact .inr ⟨_, rfl, rfl⟩
  · exact .inl ⟨_, .load .., rfl⟩

/-- One step of `LDCAL` ends it, or moves neither the engine nor the responses. -/
theorem ldcalStep_ends_or_keeps (s : State) : Ends s .ldcal (ldcalStep s)
    ∨ ((ldcalStep s).eng = s.eng ∧ (ldcalStep s).responses = s.responses) := by
  obtain ⟨-, h⟩ | ⟨-, h⟩ | ⟨-, h⟩ := ldcalStep_cases s <;> rw [h]
  · obtain ⟨-, h⟩ | ⟨b, -, h⟩ := pollCoefReady_cases s <;> rw [h]
    · exact .inl (.inr ⟨_, rfl, rfl⟩)
    · exact .inr ⟨rfl, rfl⟩
  · exact .inr ⟨rfl, rfl⟩
  · obtain ⟨-, h⟩ | ⟨b, -, h⟩ := loadBlock_cases s <;> rw [h]
    · exact .inl (.inr ⟨_, rfl, rfl⟩)
    · exact .inl (.inl ⟨_, .ldcal _, rfl⟩)

/-- All a command can do to the engine and the responses. -/
theorem exec_ends_or_keeps (i : Instr) (s : State) : ∃ t, exec i s = .next t ∧
    (Ends s i t ∨ (t.eng = s.eng ∧ t.responses = s.responses)) := by
  cases i with
  | ldcal => exact ⟨_, rfl, ldcalStep_ends_or_keeps s⟩
  | sext12 v => exact ⟨_, rfl, .inl (.respond _ (low_doutInt ..))⟩
  | sext16 v => exact ⟨_, rfl, .inl (.respond _ (low_doutInt ..))⟩
  | sext20 v => exact ⟨_, rfl, .inl (.respond _ (low_doutInt ..))⟩
  | sext24 v => exact ⟨_, rfl, .inl (.respond _ (low_doutInt ..))⟩
  | rdcoef k =>
    refine ⟨_, rfl, .inl ?_⟩
    split
    · exact .raise ..
    · exact .ite (.respond _ (low_doutInt ..)) (.raise ..)
  | setos ch l => exact ⟨_, rfl, .inl (.write (.setos ch l))⟩
  | setraw ch v => exact ⟨_, rfl, .inl (.write (.setraw ch v _))⟩
  | ldrawp => exact ⟨_, rfl, .inl (loadRaw_ends .pressure s)⟩
  | ldrawt => exact ⟨_, rfl, .inl (loadRaw_ends .temperature s)⟩
  | rdraw ch => exact ⟨_, rfl, .inl (.ite (.respond _ (low_doutInt ..)) (.raise ..))⟩
  | compt => exact ⟨_, rfl, .inl (.ite (.raise ..) (.ite (.raise ..) (.write (.compute .compt))))⟩
  | compp => exact ⟨_, rfl, .inl (.ite (.raise ..) (.ite (.raise ..) (.write (.compute .compp))))⟩
  | alt => exact ⟨_, rfl, .inl (.ite (.raise ..) (finishAltitude_ends fun _ => .alt))⟩
  | sealvl => exact ⟨_, rfl, .inl (.ite (.raise ..) (finishAltitude_ends fun _ => .sealvl))⟩
  | wrf r =>
    refine ⟨_, rfl, .inl ?_⟩
    split
    · exact .raise ..
    case h_2 f hf => exact .write (.wrf hf)
  | rdf r =>
    refine ⟨_, rfl, .inl ?_⟩
    split
    · exact .raise ..
    · exact .ite (.respond _ (Fmt.low_low ..)) (.raise ..)
  | rdstat => exact ⟨_, rfl, .inl (.respond _ (Fmt.low_setWidth_32 ..))⟩

/-- All a command can have done to the engine and the responses: it answered `OK`, it raised an error, or
it kept both. -/
theorem exec_engine_cases {i : Instr} {s t : State} (h : exec i s = .next t) :
    (∃ v, Answers s i t.eng v ∧ t.responses = s.responses ++ [⟨.ok, v⟩])
    ∨ (∃ x, t.eng = { s.eng with err := s.eng.err.first x } ∧ t.responses = s.responses ++ [⟨x, 0#64⟩])
    ∨ (t.eng = s.eng ∧ t.responses = s.responses) := by
  obtain ⟨t', ht, hend⟩ := exec_ends_or_keeps i s
  obtain rfl := Host.Outcome.next.inj (ht.symm.trans h)
  exact or_assoc.1 hend

theorem EndsAt.din {u t : State} (h : EndsAt u t) : t.din = u.din := by
  obtain ⟨e, v, rfl⟩ | ⟨e, rfl⟩ := h <;> rfl

/-- No command moves the data word at the port (30_encoding R80). -/
theorem exec_din {i : Instr} {s t : State} (h : exec i s = .next t) : t.din = s.din := by
  obtain ⟨-, hend⟩ | ⟨-, a, n, hend⟩ | ⟨-, a, n, hend⟩ | ⟨-, u, p, rfl, hu⟩ := exec_next_cases h
  · exact hend.din
  · exact hend.din
  · exact hend.din
  · obtain rfl | ⟨a, n, rfl⟩ := hu <;> rfl

/-! ### The registers one by one (10_state, the columns "written by") -/

section Answers

variable {s : State} {i : Instr} {e : Engine} {v : BitVec 64} (h : Answers s i e v)
include h

/-- A command that answers `OK` leaves `ERR` as it was. -/
theorem Answers.err : e.err = s.eng.err := by
  cases h with
  | read | ldcal => rfl
  | setos | setraw | load | compute | wrf => simp

/-- Only `LDCAL` writes the coefficients; it sets `CALV` and answers 0 (10_state R24). -/
theorem Answers.coefs : (e.coefs = s.eng.coefs ∧ e.calv = s.eng.calv)
    ∨ (i = .ldcal ∧ e.calv = true ∧ v = 0#64) := by
  cases h with
  | read => exact .inl ⟨rfl, rfl⟩
  | ldcal => exact .inr ⟨rfl, rfl, rfl⟩
  | setos | setraw | load | compute | wrf => simp

/-- The writers of a raw register (10_state R27). -/
theorem Answers.raw (ch : Channel) :
    e.raw ch = s.eng.raw ch ∨ i = loadOf ch ∨ ∃ v, i = .setraw ch v := by
  cases h with
  | read => exact .inl rfl
  | setraw ch' v w =>
    rcases eq_or_ne ch ch' with rfl | hne
    · exact .inr (.inr ⟨v, rfl⟩)
    · simp [Engine.raw_setRaw, hne]
  | load ch' w =>
    rcases eq_or_ne ch ch' with rfl | hne
    · exact .inr (.inl rfl)
    · simp [Engine.raw_setRaw, hne]
  | ldcal | setos | compute | wrf => simp

/-- The writer of a level register (10_state R29). -/
theorem Answers.os (ch : Channel) : e.os ch = s.eng.os ch ∨ ∃ l, i = .setos ch l := by
  cases h with
  | read => exact .inl rfl
  | setos ch' l =>
    rcases eq_or_ne ch ch' with rfl | hne
    · exact .inr ⟨l, rfl⟩
    · simp [Engine.os_setOs, hne]
  | ldcal | setraw | load | compute | wrf => simp

/-- The writers of a floating register (10_state R30), with what they write. -/
theorem Answers.freg (r : FReg) : e.freg r = s.eng.freg r
    ∨ (∃ x, Computes s i r x ∧ e.freg r = ⟨true, x.toBits s.params.fmt⟩)
    ∨ ∃ n, i = .wrf n ∧ FReg.ofSel n = some r ∧ e.freg r = ⟨true, s.params.fmt.low s.din⟩ := by
  cases h with
  | read => exact .inl rfl
  | @compute _ r' x hx =>
    rcases eq_or_ne r r' with rfl | hne
    · exact .inr (.inl ⟨x, hx, by simp [Engine.freg_setFreg]⟩)
    · simp [Engine.freg_setFreg, hne]
  | @wrf n r' hn =>
    rcases eq_or_ne r r' with rfl | hne
    · exact .inr (.inr ⟨n, rfl, hn, by simp [Engine.freg_setFreg]⟩)
    · simp [Engine.freg_setFreg, hne]
  | ldcal | setos | setraw | load => simp

theorem Answers.dout_fits : s.params.fmt.low v = v := by
  cases h with
  | read hfit => exact hfit
  | ldcal | setos | setraw | load | compute | wrf => exact Fmt.low_zero _

end Answers

theorem Computes.wf {s : State} {i : Instr} {r : FReg} {x : FloatVal} (h : Computes s i r x) :
    x.wf s.params.fmt = true := by
  cases h with
  | compt => exact compTemp_wf ..
  | compp => exact compPres_wf ..
  | alt hx => rw [(altChecked_some _ _ _ _ hx).1]; exact altValue_wf ..
  | sealvl hx => rw [(seaChecked_some _ _ _ _ hx).1]; exact seaValue_wf ..

end Sys2Proof.Machine
end

section
/-! PROOFS. The invariants of 10_state: `ERR` is the first error, and the patterns fit the format. -/

namespace Sys2Proof.Machine

/-! ### `ERR` is the first error -/

theorem Status.first_eq_ok_iff (err x : Status) : err.first x = .ok ↔ err = .ok ∧ x = .ok := by
  cases err <;> simp [Status.first]

theorem firstError_eq_ok_iff (rs : List Response) : firstError rs = .ok ↔ ∀ r ∈ rs, r.st = .ok := by
  induction rs using List.reverseRecOn with
  | nil => simp [firstError]
  | append_singleton rs r ih =>
    simp only [firstError_append, Status.first_eq_ok_iff, ih, List.forall_mem_append,
      List.forall_mem_singleton]

/-- A response and its status in `ERR` keep the invariant. -/
theorem State.ErrIsFirst.append {s t : State} (hs : s.ErrIsFirst) {r : Response}
    (herr : t.eng.err = s.eng.err.first r.st) (hresp : t.responses = s.responses ++ [r]) :
    t.ErrIsFirst := by
  unfold State.ErrIsFirst at hs ⊢
  rw [herr, hresp, firstError_append, hs]

theorem State.ErrIsFirst.congr {s t : State} (hs : s.ErrIsFirst) (heng : t.eng = s.eng)
    (hresp : t.responses = s.responses) : t.ErrIsFirst := by
  unfold State.ErrIsFirst at hs ⊢
  rw [heng, hresp, hs]

theorem exec_errIsFirst {i : Instr} {s t : State} (hs : s.ErrIsFirst) (h : exec i s = .next t) :
    t.ErrIsFirst := by
  obtain ⟨v, hans, hresp⟩ | ⟨x, heng, hresp⟩ | ⟨heng, hresp⟩ := exec_engine_cases h
  · exact hs.append (by simp [hans.err]) hresp
  · exact hs.append (by rw [heng]) hresp
  · exact hs.congr heng hresp

theorem hostMove_errIsFirst {s t : State} (hs : s.ErrIsFirst) (h : hostMove s = .next t) :
    t.ErrIsFirst := by
  obtain ⟨-, rfl⟩ | ⟨w, d, rest, -, rfl⟩ | hside := hostMove_cases h
  · exact hs
  · exact hs
  · exact hs.congr (congrArg EngineSide.eng hside) (congrArg EngineSide.responses hside)

theorem step_errIsFirst {s t : State} (hs : s.ErrIsFirst) (h : step s = .next t) : t.ErrIsFirst := by
  obtain ⟨-, rfl⟩ | ⟨-, w, i, -, -, hx⟩ | ⟨-, w, e, -, -, rfl⟩ | ⟨-, -, hm⟩ := step_cases s t h
  · rfl
  · exact exec_errIsFirst (s := s.tickRst) hs hx
  · exact hs.append rfl rfl
  · exact hostMove_errIsFirst (s := s.tickRst) hs hm

/-- Settles O52: every case of a step appends at most one response, whose status `ERR` takes if it is the
first error; and the first error of a list is `OK` exactly where all of it is. -/
theorem errIsFirstErrorInvariant : Obligations.ErrIsFirstErrorInvariant :=
  ⟨fun _ _ => step_errIsFirst, fun s hs => by rw [hs]; exact firstError_eq_ok_iff s.responses⟩

/-! ### The patterns fit -/

theorem Engine.reset_fits (fmt : Fmt) (scale : Vector (BitVec 24) 8) (r : FReg) :
    fmt.low ((Engine.reset fmt).freg r).val = ((Engine.reset fmt).freg r).val :=
  (resetWith_patternsFit ⟨fmt, scale⟩).1 r

/-- A response that fits and registers that fit keep the invariant. -/
theorem State.PatternsFit.append {s t : State} (hs : s.PatternsFit) (hparams : t.params = s.params)
    (hdin : t.din = s.din) (hreg : ∀ r, s.params.fmt.low (t.eng.freg r).val = (t.eng.freg r).val)
    {r : Response} (hr : s.params.fmt.low r.dout = r.dout) (hresp : t.responses = s.responses ++ [r]) :
    t.PatternsFit := by
  obtain ⟨-, hsdin, hdout⟩ := hs
  unfold State.PatternsFit
  rw [hparams, hdin, hresp, List.forall_mem_append, List.forall_mem_singleton]
  exact ⟨hreg, hsdin, hdout, hr⟩

theorem State.PatternsFit.congr {s t : State} (hs : s.PatternsFit) (hparams : t.params = s.params)
    (heng : t.eng = s.eng) (hdin : t.din = s.din) (hresp : t.responses = s.responses) :
    t.PatternsFit := by
  unfold State.PatternsFit
  rwa [hparams, heng, hdin, hresp]

theorem Answers.freg_fits {s : State} {i : Instr} {e : Engine} {v : BitVec 64} (h : Answers s i e v)
    (hs : s.PatternsFit) (r : FReg) : s.params.fmt.low (e.freg r).val = (e.freg r).val := by
  obtain hr | ⟨x, hx, hr⟩ | ⟨n, -, -, hr⟩ := h.freg r <;> rw [hr]
  · exact hs.1 r
  · exact Fmt.low_toBits _ x hx.wf
  · exact Fmt.low_low ..

theorem exec_patternsFit {i : Instr} {s t : State} (hs : s.PatternsFit) (h : exec i s = .next t) :
    t.PatternsFit := by
  have hparams := (exec_params_image h).1
  have hdin := exec_din h
  obtain ⟨v, hans, hresp⟩ | ⟨x, heng, hresp⟩ | ⟨heng, hresp⟩ := exec_engine_cases h
  · exact hs.append hparams hdin (hans.freg_fits hs) hans.dout_fits hresp
  · exact hs.append hparams hdin (by simpa [heng] using hs.1) (Fmt.low_zero _) hresp
  · exact hs.congr hparams heng hdin hresp

theorem hostMove_patternsFit {s t : State} (hs : s.PatternsFit) (h : hostMove s = .next t) :
    t.PatternsFit := by
  obtain ⟨-, rfl⟩ | ⟨w, d, rest, -, rfl⟩ | hside := hostMove_cases h
  · exact hs
  · obtain ⟨hreg, -, hdout⟩ := hs
    exact ⟨hreg, Fmt.low_low .., hdout⟩
  · exact hs.congr (congrArg EngineSide.params hside) (congrArg EngineSide.eng hside)
      (congrArg EngineSide.din hside) (congrArg EngineSide.responses hside)

theorem step_patternsFit {s t : State} (hs : s.PatternsFit) (h : step s = .next t) : t.PatternsFit := by
  obtain ⟨-, rfl⟩ | ⟨-, w, i, -, -, hx⟩ | ⟨-, w, e, -, -, rfl⟩ | ⟨-, -, hm⟩ := step_cases s t h
  · obtain ⟨-, hdin, -⟩ := hs
    exact ⟨Engine.reset_fits _ s.params.scale, hdin, by simp⟩
  · exact exec_patternsFit (s := s.tickRst) hs hx
  · exact hs.append rfl rfl (by simpa using hs.1) (Fmt.low_zero _) rfl
  · exact hostMove_patternsFit (s := s.tickRst) hs hm

/-- Settles O53: a command writes a datum's pattern or one cut to `FLEN` bits and answers in 32 bits or with
such a pattern, the port cuts `DIN`, and the reset engine fits. -/
theorem patternsFitInvariant : Obligations.PatternsFitInvariant := fun _ _ => step_patternsFit

end Sys2Proof.Machine
end

section
/-! PROOFS. The writers of each register, over a command and over a step. -/

namespace Sys2Proof.Machine

/-! ### The writers of each register -/

theorem decodePlain_eq_ok {sel : BitVec 4} {imm : BitVec 24} {i j : Instr}
    (h : decodePlain sel imm i = .ok j) : sel = 0#4 ∧ imm = 0#24 ∧ i = j := by
  unfold decodePlain at h
  split at h
  · cases h
  · split at h
    · cases h
    · cases h; simp_all

/-- `LDCAL` has one word: no other row of the opcode map answers it. -/
theorem eq_encode_ldcal_of_decode {w : Word} (h : decode w = .ok .ldcal) : w = encode .ldcal := by
  unfold decode at h
  simp only at h
  split at h
  case h_2 hop =>
    obtain ⟨hsel, himm, -⟩ := decodePlain_eq_ok h
    rw [← wordOf_fields w, hsel, himm, show opOf w = 2#4 from BitVec.eq_of_toNat_eq hop]
    rfl
  case h_15 => cases h
  all_goals
    simp only [decodePlain, decodeSext, decodeIndexed, decodeSetos, decodeSetraw, decodeLdraw,
      decodeRdraw] at h
    (repeat' split at h) <;> cases h

theorem exec_coefs {i : Instr} {s t : State} (h : exec i s = .next t) :
    (t.eng.coefs = s.eng.coefs ∧ t.eng.calv = s.eng.calv)
    ∨ (i = .ldcal ∧ t.eng.calv = true ∧ t.responses = s.responses ++ [⟨.ok, 0#64⟩]) := by
  obtain ⟨v, hans, hresp⟩ | ⟨x, heng, -⟩ | ⟨heng, -⟩ := exec_engine_cases h
  · refine hans.coefs.imp_right fun ⟨hi, hcalv, hv⟩ => ⟨hi, hcalv, ?_⟩
    rw [hresp, hv]
  · simp [heng]
  · simp [heng]

/-- Settles O28: of the commands only an `LDCAL` that answers `OK` writes the coefficients, and it has one
word; no other case of a step writes them but `RST`. -/
theorem coefficientsWrittenOnlyByLdcal : Obligations.CoefficientsWrittenOnlyByLdcal := by
  intro s t h
  obtain ⟨hr, -⟩ | ⟨-, w, i, hcw, hw, hx⟩ | ⟨-, w, e, -, -, rfl⟩ | ⟨-, -, hm⟩ := step_cases s t h
  · exact .inr (.inl hr)
  · refine (exec_coefs (s := s.tickRst) hx).imp_right fun ⟨hi, hcalv, hresp⟩ => .inr ⟨?_, hcalv, hresp⟩
    rw [hi] at hw
    rw [hcw, eq_encode_ldcal_of_decode hw]
    rfl
  · exact .inl ⟨rfl, rfl⟩
  · refine .inl ?_
    obtain ⟨-, rfl⟩ | ⟨_, _, _, -, rfl⟩ | hside := hostMove_cases hm
    · exact ⟨rfl, rfl⟩
    · exact ⟨rfl, rfl⟩
    · have heng : t.eng = s.eng := congrArg EngineSide.eng hside
      rw [heng]; exact ⟨rfl, rfl⟩

theorem exec_raw {i : Instr} {s t : State} (h : exec i s = .next t) (ch : Channel) :
    t.eng.raw ch = s.eng.raw ch ∨ i = loadOf ch ∨ ∃ v, i = .setraw ch v := by
  obtain ⟨v, hans, -⟩ | ⟨x, heng, -⟩ | ⟨heng, -⟩ := exec_engine_cases h
  · exact hans.raw ch
  · simp [heng]
  · simp [heng]

theorem exec_os {i : Instr} {s t : State} (h : exec i s = .next t) (ch : Channel) :
    t.eng.os ch = s.eng.os ch ∨ ∃ l, i = .setos ch l := by
  obtain ⟨v, hans, -⟩ | ⟨x, heng, -⟩ | ⟨heng, -⟩ := exec_engine_cases h
  · exact hans.os ch
  · simp [heng]
  · simp [heng]

theorem exec_freg {i : Instr} {s t : State} (h : exec i s = .next t) (r : FReg) :
    t.eng.freg r = s.eng.freg r
    ∨ (∃ x, Computes s i r x ∧ t.eng.freg r = ⟨true, x.toBits s.params.fmt⟩)
    ∨ ∃ n, i = .wrf n ∧ FReg.ofSel n = some r ∧ t.eng.freg r = ⟨true, s.params.fmt.low s.din⟩ := by
  obtain ⟨v, hans, -⟩ | ⟨x, heng, -⟩ | ⟨heng, -⟩ := exec_engine_cases h
  · exact hans.freg r
  · simp [heng]
  · simp [heng]

/-- The commands of a floating register's row (10_state R30). -/
def FReg.Writer (i : Instr) : FReg → Prop
  | .t => i = .compt ∨ i = .wrf 0#4
  | .p => i = .compp ∨ i = .wrf 1#4
  | .a => i = .alt ∨ i = .wrf 2#4
  | .s => i = .sealvl ∨ i = .wrf 3#4
  | .h => i = .wrf 4#4

theorem Computes.writer {s : State} {i : Instr} {r : FReg} {x : FloatVal} (h : Computes s i r x) :
    r.Writer i := by
  cases h <;> exact .inl rfl

/-- The number of a floating register (10_state R30). -/
def FReg.sel : FReg → BitVec 4
  | .t => 0#4
  | .p => 1#4
  | .a => 2#4
  | .s => 3#4
  | .h => 4#4

theorem FReg.eq_sel_of_ofSel {n : BitVec 4} {r : FReg} (h : FReg.ofSel n = some r) : n = r.sel := by
  revert n r
  decide

theorem FReg.writer_wrf {n : BitVec 4} {r : FReg} (h : FReg.ofSel n = some r) : r.Writer (.wrf n) := by
  obtain rfl := FReg.eq_sel_of_ofSel h
  cases r with
  | t | p | a | s => exact .inr rfl
  | h => rfl

theorem exec_freg_writer {i : Instr} {s t : State} (h : exec i s = .next t) (r : FReg) :
    t.eng.freg r = s.eng.freg r ∨ r.Writer i := by
  obtain hr | ⟨x, hx, -⟩ | ⟨n, rfl, hn, -⟩ := exec_freg h r
  · exact .inl hr
  · exact .inr hx.writer
  · exact .inr (FReg.writer_wrf hn)

/-- Settles O49: the writers of a raw, a level and a floating register, at each of the nine. -/
theorem registersWrittenOnlyByTheirCommands : Obligations.RegistersWrittenOnlyByTheirCommands :=
  fun _ _ _ h => ⟨exec_raw h .pressure, exec_raw h .temperature, exec_os h .pressure,
    exec_os h .temperature, exec_freg_writer h .t, exec_freg_writer h .p, exec_freg_writer h .a,
    exec_freg_writer h .s, exec_freg_writer h .h⟩

end Sys2Proof.Machine
end

section
/-! PROOFS. What a valid bit of 0 hides stays hidden: each operation takes states that agree to states that
agree (10_state R41). -/

namespace Sys2Proof.Machine

/-! ### Engines that agree -/

theorem Reg.Agrees.refl {w : Nat} (a : Reg w) : a.Agrees a := ⟨rfl, fun _ => rfl⟩

theorem Engine.Agrees.refl (e : Engine) : e.Agrees e :=
  ⟨rfl, fun _ => rfl, rfl, fun _ => .refl _, fun _ => .refl _, fun _ => .refl _⟩

section Engine

variable {a b : Engine} (h : a.Agrees b)
include h

theorem Engine.Agrees.calv : a.calv = b.calv :=
  let ⟨hcalv, _⟩ := h; hcalv
theorem Engine.Agrees.coefs (hv : a.calv = true) : a.coefs = b.coefs :=
  let ⟨_, hcoefs, _⟩ := h; hcoefs hv
theorem Engine.Agrees.err : a.err = b.err :=
  let ⟨_, _, herr, _⟩ := h; herr
theorem Engine.Agrees.raw (ch : Channel) : (a.raw ch).Agrees (b.raw ch) :=
  let ⟨_, _, _, hraw, _⟩ := h; hraw ch
theorem Engine.Agrees.os (ch : Channel) : (a.os ch).Agrees (b.os ch) :=
  let ⟨_, _, _, _, hos, _⟩ := h; hos ch
theorem Engine.Agrees.freg (r : FReg) : (a.freg r).Agrees (b.freg r) :=
  let ⟨_, _, _, _, _, hfreg⟩ := h; hfreg r

theorem Engine.Agrees.setErr (x : Status) :
    ({ a with err := x } : Engine).Agrees { b with err := x } :=
  ⟨h.calv, h.coefs, rfl, by simpa using h.raw, by simpa using h.os, by simpa using h.freg⟩

theorem Engine.Agrees.setCoefs (c : Coefs) : (a.setCoefs c).Agrees (b.setCoefs c) :=
  ⟨rfl, fun _ => rfl, h.err, by simpa using h.raw, by simpa using h.os, by simpa using h.freg⟩

theorem Engine.Agrees.setRaw (ch : Channel) (v : BitVec 24) : (a.setRaw ch v).Agrees (b.setRaw ch v) := by
  refine ⟨by simpa using h.calv, by simpa using h.coefs, by simpa using h.err, fun ch' => ?_,
    by simpa using h.os, by simpa using h.freg⟩
  rw [Engine.raw_setRaw, Engine.raw_setRaw]
  split
  · exact .refl _
  · exact h.raw ch'

theorem Engine.Agrees.setOs (ch : Channel) (l : BitVec 3) : (a.setOs ch l).Agrees (b.setOs ch l) := by
  refine ⟨by simpa using h.calv, by simpa using h.coefs, by simpa using h.err, by simpa using h.raw,
    fun ch' => ?_, by simpa using h.freg⟩
  rw [Engine.os_setOs, Engine.os_setOs]
  split
  · exact .refl _
  · exact h.os ch'

theorem Engine.Agrees.setFreg (r : FReg) (v : Pattern) : (a.setFreg r v).Agrees (b.setFreg r v) := by
  refine ⟨by simpa using h.calv, by simpa using h.coefs, by simpa using h.err, by simpa using h.raw,
    by simpa using h.os, fun r' => ?_⟩
  rw [Engine.freg_setFreg, Engine.freg_setFreg]
  split
  · exact .refl _
  · exact h.freg r'

theorem Engine.Agrees.channelReady_eq (ch : Channel) : channelReady a ch = channelReady b ch := by
  unfold channelReady
  rw [(h.raw ch).1, (h.os ch).1]

/-- What is read of a channel that is ready is the same. -/
theorem Engine.Agrees.channel_vals {ch : Channel} (hr : channelReady a ch = true) :
    (a.raw ch).val = (b.raw ch).val ∧ (a.os ch).val = (b.os ch).val := by
  obtain ⟨hraw, hos⟩ := Bool.and_eq_true_iff.1 hr
  exact ⟨(h.raw ch).2 hraw, (h.os ch).2 hos⟩

/-- `STATUS` shows nothing that a valid bit hides (10_state R34). -/
theorem Engine.Agrees.statusWord_eq : statusWord a = statusWord b := by
  have level (ch : Channel) : levelView (a.os ch) = levelView (b.os ch) := by
    unfold levelView
    rw [← (h.os ch).1]
    split
    case isTrue hv => exact (h.os ch).2 hv
    case isFalse => rfl
  unfold statusWord
  rw [show levelView a.osT = levelView b.osT from level .temperature,
    show levelView a.osP = levelView b.osP from level .pressure,
    show a.osT.valid = b.osT.valid from (h.os .temperature).1,
    show a.osP.valid = b.osP.valid from (h.os .pressure).1,
    show a.rawT.valid = b.rawT.valid from (h.raw .temperature).1,
    show a.rawP.valid = b.rawP.valid from (h.raw .pressure).1,
    show a.fT.valid = b.fT.valid from (h.freg .t).1, show a.fP.valid = b.fP.valid from (h.freg .p).1,
    show a.fA.valid = b.fA.valid from (h.freg .a).1, show a.fS.valid = b.fS.valid from (h.freg .s).1,
    show a.fH.valid = b.fH.valid from (h.freg .h).1, h.calv, h.err]

end Engine

/-- Whether a coefficient of this number exists does not depend on the coefficients. -/
theorem Coefs.read_eq_none_iff (c d : Coefs) (k : BitVec 4) : c.read k = none ↔ d.read k = none := by
  unfold Coefs.read
  split <;> simp

/-! ### Operations that do not look at the engine -/

/-- The state with another engine in it. -/
def State.withEng (s : State) (e : Engine) : State := { s with eng := e }

/-- `f` neither reads nor writes the engine. -/
def EngineBlind (f : State → State) : Prop := ∀ (u : State) (e : Engine), f (u.withEng e) = (f u).withEng e

theorem EngineBlind.comp {f g : State → State} (hf : EngineBlind f) (hg : EngineBlind g) :
    EngineBlind fun u => f (g u) := fun u e =>
  (congrArg f (hg u e)).trans (hf (g u) e)

theorem EngineBlind.ite {c : State → Bool} {f g : State → State} (hc : ∀ u e, c (u.withEng e) = c u)
    (hf : EngineBlind f) (hg : EngineBlind g) : EngineBlind fun u => if c u then f u else g u :=
  fun u e => by
    simp only [hc]
    cases c u
    · exact hg u e
    · exact hf u e

theorem EngineBlind.eng {f : State → State} (hf : EngineBlind f) (u : State) : (f u).eng = u.eng :=
  (congrArg State.eng (hf u u.eng) :)

theorem engineBlind_tickRst : EngineBlind State.tickRst := fun _ _ => rfl
theorem engineBlind_leaveLdcal : EngineBlind State.leaveLdcal := fun _ _ => rfl
theorem engineBlind_stillExecuting (p : LdcalPhase) : EngineBlind (State.stillExecuting · p) :=
  fun _ _ => rfl
theorem engineBlind_respond (v : BitVec 64) : EngineBlind (State.respond · v) := fun _ _ => rfl
theorem engineBlind_present (w : Word) (d : Pattern) : EngineBlind (State.present · w d) := fun _ _ => rfl
theorem engineBlind_sleep (ms : Nat) : EngineBlind (State.sleep · ms) := fun _ _ => rfl
theorem engineBlind_afterRead (a : BitVec 7) (n : Nat) : EngineBlind (State.afterRead · a n) :=
  fun _ _ => rfl
theorem engineBlind_afterWrite (a : BitVec 7) (v : Byte) : EngineBlind (State.afterWrite · a v) :=
  fun _ _ => rfl
theorem engineBlind_logHost (r : HostResult) : EngineBlind (State.logHost · r) := fun _ _ => rfl
theorem engineBlind_queue (as : List HostAction) : EngineBlind (State.queue · as) := fun _ _ => rfl
theorem engineBlind_setPending (as : List HostAction) :
    EngineBlind fun u => { u with pending := as } := fun _ _ => rfl
theorem engineBlind_commitConfig (ch : Channel) (c : ChannelConfig) :
    EngineBlind (State.commitConfig · ch c) := fun _ _ => by cases ch <;> rfl
theorem engineBlind_reissueAfterReset : EngineBlind reissueAfterReset := fun _ _ => rfl

@[simp] theorem readData_withEng (u : State) (e : Engine) (a : BitVec 7) (n : Nat) :
    (u.withEng e).readData a n = u.readData a n := rfl
@[simp] theorem writeOk_withEng (u : State) (e : Engine) (a : BitVec 7) (v : Byte) :
    (u.withEng e).writeOk a v = u.writeOk a v := rfl

theorem engineBlind_hostRead (a : BitVec 7) : EngineBlind (hostRead a) := fun u e => by
  simp only [hostRead, readData_withEng]
  split <;> rfl

theorem engineBlind_hostWrite (a : BitVec 7) (v : Byte) : EngineBlind (hostWrite a v) :=
  .ite (fun _ _ => rfl) ((engineBlind_logHost .ok).comp (engineBlind_afterWrite a v))
    ((engineBlind_logHost .busError).comp (engineBlind_afterWrite a v))

theorem engineBlind_hostModify (a : BitVec 7) (f : Byte → Byte) {after : State → State}
    (hafter : EngineBlind after) : EngineBlind (hostModify a f after) := fun u e => by
  simp only [hostModify, readData_withEng, engineBlind_afterRead a 1 u e, writeOk_withEng]
  split
  · rfl
  · split
    · exact (hafter.comp (engineBlind_afterWrite _ _)) _ e
    · rfl

theorem engineBlind_hostWait (mask : Byte) (ms : Nat) (a : HostAction) {after : State → State}
    (hafter : EngineBlind after) : EngineBlind (hostWait mask ms a after) := fun u e => by
  simp only [hostWait, readData_withEng]
  split
  · rfl
  · split
    · exact (hafter.comp ((engineBlind_logHost .ok).comp (engineBlind_afterRead _ _))) u e
    · rfl

theorem engineBlind_hostSetMode (mode : OperatingMode) : EngineBlind (hostSetMode mode) :=
  .ite (fun _ _ => rfl) (engineBlind_logHost _) (engineBlind_hostModify _ _ (engineBlind_logHost .ok))

theorem engineBlind_hostConfigure (ch : Channel) (rate level : BitVec 3) :
    EngineBlind (hostConfigure ch rate level) := by
  have hmodify := engineBlind_hostModify 0x09#7 (withShift ch level)
    ((engineBlind_queue [presentSetos ch level]).comp (engineBlind_logHost .ok))
  have hwrite : EngineBlind fun u => u.afterWrite (configAddr ch)
      (configByte (Config.configBit7 ch u.history) rate level) := fun _ _ => rfl
  exact .ite (fun _ _ => by cases ch <;> rfl) (engineBlind_logHost _)
    (.ite (fun _ _ => rfl) ((engineBlind_logHost .busError).comp hwrite)
      (hmodify.comp ((engineBlind_commitConfig ch ⟨rate, level⟩).comp hwrite)))

theorem engineBlind_hostSensorReset : EngineBlind hostSensorReset :=
  .ite (fun _ _ => rfl)
    ((engineBlind_queue _).comp ((engineBlind_sleep 10).comp (engineBlind_afterWrite _ _)))
    ((engineBlind_logHost .busError).comp (engineBlind_afterWrite _ _))

theorem engineBlind_hostCheckId : EngineBlind hostCheckId := fun u e => by
  simp only [hostCheckId, readData_withEng]
  split
  · rfl
  · split <;> rfl

/-! ### States that agree -/

theorem State.Agrees.refl (s : State) : s.Agrees s := ⟨.refl _, rfl⟩

theorem State.Agrees.ite {a a' b b' : State} {c c' : Bool} (hc : c = c')
    (ha : c = true → a.Agrees a') (hb : c = false → b.Agrees b') :
    (if c then a else b).Agrees (if c' then a' else b') := by
  subst hc
  cases c
  · exact hb rfl
  · exact ha rfl

section State

variable {s t : State} (h : s.Agrees t)
include h

theorem State.Agrees.eng : s.eng.Agrees t.eng := h.1
theorem State.Agrees.params : s.params = t.params := (congrArg State.params h.2 :)
theorem State.Agrees.cw : s.cw = t.cw := (congrArg State.cw h.2 :)
theorem State.Agrees.phase : s.phase = t.phase := (congrArg State.phase h.2 :)
theorem State.Agrees.din : s.din = t.din := (congrArg State.din h.2 :)
theorem State.Agrees.pending : s.pending = t.pending := (congrArg State.pending h.2 :)

theorem State.Agrees.readData (a : BitVec 7) (n : Nat) : s.readData a n = t.readData a n :=
  (congrArg (State.readData · a n) h.2 :)

theorem State.Agrees.rstAsserted : s.rstAsserted = t.rstAsserted := (congrArg State.rstAsserted h.2 :)

/-- An operation that does not look at the engine keeps the agreement. -/
theorem State.Agrees.map {f : State → State} (hf : EngineBlind f) : (f s).Agrees (f t) := by
  obtain ⟨heng, hs⟩ := h
  refine ⟨by rwa [hf.eng, hf.eng], ?_⟩
  calc f s = f (t.withEng s.eng) := congrArg f hs
    _ = (f t).withEng s.eng := hf t s.eng
    _ = (f t).withEng (f s).eng := by rw [hf.eng]

/-- Writing engines that agree keeps the agreement. -/
theorem State.Agrees.setEng {a b : Engine} (hab : a.Agrees b) :
    ({ s with eng := a } : State).Agrees { t with eng := b } :=
  ⟨hab, (congrArg (State.withEng · a) h.2 :)⟩

theorem State.Agrees.respond (v : BitVec 64) : (s.respond v).Agrees (t.respond v) :=
  h.map (engineBlind_respond v)

theorem State.Agrees.raise (x : Status) : (s.raise x).Agrees (t.raise x) := by
  have herr := (h.setEng (h.eng.setErr (s.eng.err.first x))).map (f := fun u =>
    { u with cw := none, responses := u.responses ++ [⟨x, 0#64⟩] }) fun _ _ => rfl
  unfold State.raise
  rwa [← h.eng.err]

/-- Writing one value to a floating register keeps the agreement. -/
theorem State.Agrees.writeFreg (r : FReg) {x y : FloatVal} (hxy : x = y) :
    (State.respond { s with eng := s.eng.setFreg r (x.toBits s.params.fmt) } 0#64).Agrees
      (State.respond { t with eng := t.eng.setFreg r (y.toBits t.params.fmt) } 0#64) := by
  have hbits : x.toBits s.params.fmt = y.toBits t.params.fmt := by rw [hxy, h.params]
  rw [hbits]
  exact (h.setEng (h.eng.setFreg r _)).respond _

theorem State.Agrees.afterRead (a : BitVec 7) (n : Nat) : (s.afterRead a n).Agrees (t.afterRead a n) :=
  h.map (engineBlind_afterRead a n)

/-- `RST` puts both engines at the same values. -/
theorem State.Agrees.applyRst : s.applyRst.Agrees t.applyRst := by
  have : s.applyRst = t.applyRst := (congrArg State.applyRst h.2 :)
  rw [this]
  exact .refl _

theorem State.Agrees.scaleOf {ch : Channel} (hos : (s.eng.os ch).val = (t.eng.os ch).val) :
    s.scaleOf ch = t.scaleOf ch := by
  unfold State.scaleOf
  rw [hos, h.params]

theorem State.Agrees.floatOf {r : FReg} (hv : (s.eng.freg r).valid = true) :
    s.floatOf r = t.floatOf r := by
  unfold State.floatOf
  rw [(h.eng.freg r).2 hv, h.params]

/-! ### Commands -/

theorem loadRaw_agrees (ch : Channel) : (loadRaw ch s).Agrees (loadRaw ch t) := by
  have hread := h.afterRead (dataAddr ch) 3
  unfold loadRaw
  rw [h.readData]
  split
  · exact hread.raise _
  · exact (hread.setEng (hread.eng.setRaw ch _)).respond _

theorem pollCoefReady_agrees : (pollCoefReady s).Agrees (pollCoefReady t) := by
  have hread := h.afterRead measStatus 1
  unfold pollCoefReady
  rw [h.readData]
  split
  · exact (hread.map engineBlind_leaveLdcal).raise _
  · exact hread.map (engineBlind_stillExecuting _)

theorem loadBlock_agrees : (loadBlock s).Agrees (loadBlock t) := by
  have hread := (h.afterRead calBlock 18).map engineBlind_leaveLdcal
  unfold loadBlock
  rw [h.readData]
  split
  · exact hread.raise _
  · exact (hread.setEng (hread.eng.setCoefs _)).respond _

theorem ldcalStep_agrees : (ldcalStep s).Agrees (ldcalStep t) := by
  unfold ldcalStep
  rw [h.phase]
  split
  · exact pollCoefReady_agrees h
  · exact (h.map (engineBlind_sleep 20)).map (engineBlind_stillExecuting .poll)
  · exact loadBlock_agrees h

theorem finishAltitude_agrees (r : FReg) (x : Option FloatVal) :
    (finishAltitude r x s).Agrees (finishAltitude r x t) := by
  unfold finishAltitude
  split
  · exact h.raise _
  · exact h.writeFreg r rfl

theorem rdcoef_agrees (k : BitVec 4) : sameOutcome (execRdcoef k s) (execRdcoef k t) := by
  unfold execRdcoef
  split
  case h_1 hk =>
    rw [(Coefs.read_eq_none_iff s.eng.coefs t.eng.coefs k).1 hk]
    exact h.raise _
  case h_2 v hk =>
    cases hk' : t.eng.coefs.read k with
    | none => simp [(Coefs.read_eq_none_iff s.eng.coefs t.eng.coefs k).2 hk'] at hk
    | some w =>
      refine State.Agrees.ite h.eng.calv (fun hv => ?_) fun _ => h.raise _
      rw [h.eng.coefs hv, hk'] at hk
      rw [Option.some.inj hk]
      exact h.respond _

theorem compt_agrees : sameOutcome (execCompt s) (execCompt t) := by
  refine State.Agrees.ite (by rw [h.eng.calv]) (fun _ => h.raise _) fun hv => ?_
  refine State.Agrees.ite (by rw [h.eng.channelReady_eq]) (fun _ => h.raise _) fun hT => ?_
  obtain ⟨hraw, hos⟩ := h.eng.channel_vals (by simpa using hT)
  refine h.writeFreg .t ?_
  rw [h.eng.coefs (by simpa using hv), h.scaleOf hos, h.params, show s.eng.rawT.val = _ from hraw]
  rfl

theorem compp_agrees : sameOutcome (execCompp s) (execCompp t) := by
  refine State.Agrees.ite (by rw [h.eng.calv]) (fun _ => h.raise _) fun hv => ?_
  refine State.Agrees.ite (by rw [h.eng.channelReady_eq, h.eng.channelReady_eq]) (fun _ => h.raise _)
    fun hready => ?_
  obtain ⟨hP, hT⟩ := Bool.and_eq_true_iff.1 (by simpa only [Bool.not_eq_false'] using hready)
  obtain ⟨hrawP, hosP⟩ := h.eng.channel_vals hP
  obtain ⟨hrawT, hosT⟩ := h.eng.channel_vals hT
  refine h.writeFreg .p ?_
  rw [h.eng.coefs (by simpa using hv), h.scaleOf hosP, h.scaleOf hosT, h.params,
    show s.eng.rawP.val = _ from hrawP, show s.eng.rawT.val = _ from hrawT]
  rfl

theorem alt_agrees : sameOutcome (execAlt s) (execAlt t) := by
  refine State.Agrees.ite ?_ (fun _ => h.raise _) fun hv => ?_
  · rw [show s.eng.fP.valid = _ from (h.eng.freg .p).1, show s.eng.fS.valid = _ from (h.eng.freg .s).1]
    rfl
  · obtain ⟨hP, hS⟩ := Bool.and_eq_true_iff.1 (by simpa only [Bool.not_eq_false'] using hv)
    rw [h.floatOf (r := .p) hP, h.floatOf (r := .s) hS, h.params]
    exact finishAltitude_agrees h _ _

theorem sealvl_agrees : sameOutcome (execSealvl s) (execSealvl t) := by
  refine State.Agrees.ite ?_ (fun _ => h.raise _) fun hv => ?_
  · rw [show s.eng.fP.valid = _ from (h.eng.freg .p).1, show s.eng.fH.valid = _ from (h.eng.freg .h).1]
    rfl
  · obtain ⟨hP, hH⟩ := Bool.and_eq_true_iff.1 (by simpa only [Bool.not_eq_false'] using hv)
    rw [h.floatOf (r := .p) hP, h.floatOf (r := .h) hH, h.params]
    exact finishAltitude_agrees h _ _

theorem wrf_agrees (n : BitVec 4) : sameOutcome (execWrf n s) (execWrf n t) := by
  unfold execWrf
  cases FReg.ofSel n with
  | none => exact h.raise _
  | some r =>
    rw [show s.params.fmt.low s.din = t.params.fmt.low t.din by rw [h.params, h.din]]
    exact (h.setEng (h.eng.setFreg r _)).respond _

theorem rdf_agrees (n : BitVec 4) : sameOutcome (execRdf n s) (execRdf n t) := by
  unfold execRdf
  cases FReg.ofSel n with
  | none => exact h.raise _
  | some r =>
    refine State.Agrees.ite (h.eng.freg r).1 (fun hv => ?_) fun _ => h.raise _
    rw [(h.eng.freg r).2 hv, h.params]
    exact h.respond _

theorem rdraw_agrees (ch : Channel) : sameOutcome (execRdraw ch s) (execRdraw ch t) := by
  refine State.Agrees.ite (h.eng.raw ch).1 (fun hv => ?_) fun _ => h.raise _
  rw [(h.eng.raw ch).2 hv]
  exact h.respond _

/-- No command shows what a valid bit of 0 hides. -/
theorem exec_agrees (i : Instr) : sameOutcome (exec i s) (exec i t) := by
  cases i with
  | sext12 v | sext16 v | sext20 v | sext24 v => exact h.respond _
  | ldcal => exact ldcalStep_agrees h
  | rdcoef k => exact rdcoef_agrees h k
  | setos ch l => exact (h.setEng (h.eng.setOs ch l)).respond _
  | setraw ch v => exact (h.setEng (h.eng.setRaw ch _)).respond _
  | ldrawp => exact loadRaw_agrees h .pressure
  | ldrawt => exact loadRaw_agrees h .temperature
  | rdraw ch => exact rdraw_agrees h ch
  | compt => exact compt_agrees h
  | compp => exact compp_agrees h
  | alt => exact alt_agrees h
  | sealvl => exact sealvl_agrees h
  | wrf n => exact wrf_agrees h n
  | rdf n => exact rdf_agrees h n
  | rdstat =>
    change ((s.respond _).Agrees (t.respond _))
    rw [h.eng.statusWord_eq]
    exact h.respond _

/-! ### The step -/

/-- No host move looks at the engine. -/
theorem hostMove_agrees : sameOutcome (hostMove s) (hostMove t) := by
  unfold hostMove
  rw [h.pending]
  split
  · exact h
  case h_2 a rest hp =>
    have hrest := h.map (engineBlind_setPending rest)
    cases a with
    | command w d => exact hrest.map (engineBlind_present w d)
    | readReg addr =>
      simp only
      cases sensorAddr addr with
      | none => rfl
      | some x => exact hrest.map (engineBlind_hostRead x)
    | writeReg addr v =>
      simp only
      cases sensorAddr addr with
      | none => rfl
      | some x => exact hrest.map (engineBlind_hostWrite x v)
    | setMode mode => exact hrest.map (engineBlind_hostSetMode mode)
    | configureChannel ch rate level => exact hrest.map (engineBlind_hostConfigure ch rate level)
    | sensorReset => exact hrest.map engineBlind_hostSensorReset
    | waitSensorReady => exact hrest.map (engineBlind_hostWait _ _ _ engineBlind_reissueAfterReset)
    | waitMeasurement ms => exact hrest.map (engineBlind_hostWait _ ms _ (after := id) fun _ _ => rfl)
    | checkProductId => exact hrest.map engineBlind_hostCheckId

theorem step_agrees : sameOutcome (step s) (step t) := by
  have htick := h.map engineBlind_tickRst
  unfold step
  rw [h.rstAsserted, h.cw]
  split
  · exact htick.applyRst
  · split
    · split
      · exact exec_agrees htick _
      · exact htick.raise _
    · exact hostMove_agrees htick

end State

/-- Settles O54: each branch of a step reads a register only behind its valid bit, or not at all. -/
theorem unwrittenContentsUnobservable : Obligations.UnwrittenContentsUnobservable :=
  fun _ _ => step_agrees

end Sys2Proof.Machine
end

section
/-! PROOFS. Bounds that rounding keeps, the compensation formulas within them (43_compensation R145), and
that no computing command leaves a non-finite value (10_state R31). -/

namespace Sys2Proof

/-! ### Rounding and powers of two -/

theorem NearestMag.le_of_le {fmt : Fmt} {x : Rat} {mag b : Nat} (h : NearestMag fmt x mag)
    (hx : x ≤ unitsOf fmt b) : mag ≤ b := by
  by_contra! hlt
  have hunits : (unitsOf fmt b : Rat) < unitsOf fmt mag := by exact_mod_cast unitsOf_strictMono fmt hlt
  linarith [le_two_mul_of_abs_sub_le hunits (h b).1]

theorem NearestMag.le_of_ge {fmt : Fmt} {x : Rat} {mag b : Nat} (h : NearestMag fmt x mag)
    (hx : (unitsOf fmt b : Rat) ≤ x) : b ≤ mag := by
  by_contra! hlt
  have hunits : (unitsOf fmt mag : Rat) < unitsOf fmt b := by exact_mod_cast unitsOf_strictMono fmt hlt
  linarith [two_mul_le_of_abs_sub_le hunits (h b).1]

/-- Both formats have every power of two from 1 to `2 ^ 127` as a finite datum. -/
theorem exists_unitsOf_eq_pow (fmt : Fmt) {n : Nat} (hn : n ≤ 127) :
    ∃ mag < fmt.infMag, unitsOf fmt mag = 2 ^ (n + fmt.quantum) := by
  refine ⟨(n + fmt.quantum - (fmt.prec - 1)) * 2 ^ (fmt.prec - 1) + 2 ^ (fmt.prec - 1), ?_, ?_⟩
  · cases fmt <;> simp only [Fmt.quantum, Fmt.prec, Fmt.infMag] <;> omega
  · rw [unitsOf_significand fmt _ _ (Nat.le_mul_of_pos_left _ two_pos) (.inr le_rfl), ← pow_add]
    congr 1
    cases fmt <;> simp only [Fmt.quantum, Fmt.prec] <;> omega

/-- `x` is finite, and its absolute value is at most `2 ^ n`. -/
def FloatVal.AtMostPow (fmt : Fmt) (n : Nat) (x : FloatVal) : Prop :=
  ∃ neg mag, x = .fin neg mag ∧ unitsOf fmt mag ≤ 2 ^ (n + fmt.quantum)

/-- `x` is finite, and its absolute value is at least 1. -/
def FloatVal.AtLeastOne (fmt : Fmt) (x : FloatVal) : Prop :=
  ∃ neg mag, x = .fin neg mag ∧ 2 ^ fmt.quantum ≤ unitsOf fmt mag

theorem FloatVal.AtMostPow.finite {fmt : Fmt} {n : Nat} {x : FloatVal} (h : x.AtMostPow fmt n) :
    x.finite = true := by
  obtain ⟨neg, mag, rfl, -⟩ := h
  rfl

section Bounds

variable {fmt : Fmt} {n : Nat} (hn : n ≤ 127)
include hn

/-- A quotient of units at most `2 ^ n` rounds to a finite magnitude at most `2 ^ n`. -/
theorem roundMag_le_pow {num den : Nat} (hden : 0 < den) (h : num ≤ 2 ^ (n + fmt.quantum) * den) :
    roundMag fmt num den < fmt.infMag ∧ unitsOf fmt (roundMag fmt num den) ≤ 2 ^ (n + fmt.quantum) := by
  obtain ⟨b, hb, hpow⟩ := exists_unitsOf_eq_pow fmt hn
  have hle : roundMag fmt num den ≤ b := by
    refine (roundMag_nearest fmt num den hden).le_of_le ?_
    rw [div_le_iff₀ (by exact_mod_cast hden), hpow]
    exact_mod_cast h
  exact ⟨hle.trans_lt hb, hpow ▸ (unitsOf_strictMono fmt).monotone hle⟩

theorem roundTo_atMostPow (neg : Bool) {num den : Nat} (hden : 0 < den)
    (h : num ≤ 2 ^ (n + fmt.quantum) * den) : (roundTo fmt neg num den).AtMostPow fmt n := by
  obtain ⟨hlt, hle⟩ := roundMag_le_pow hn hden h
  exact ⟨neg, _, by rw [roundTo_eq, if_pos hlt], hle⟩

theorem ofInt_atMostPow {i : Int} (hi : i.natAbs ≤ 2 ^ n) : (ofInt fmt i).AtMostPow fmt n :=
  roundTo_atMostPow hn _ one_pos (by
    rw [mul_one, pow_add]
    exact Nat.mul_le_mul_right _ hi)

/-- A number from 1 to `2 ^ n` rounds to a datum that is at least 1. -/
theorem ofInt_atLeastOne {k : Nat} (hpos : 0 < k) (hk : k ≤ 2 ^ n) : (ofInt fmt k).AtLeastOne fmt := by
  have hbound : k * 2 ^ fmt.quantum ≤ 2 ^ (n + fmt.quantum) * 1 := by
    rw [mul_one, pow_add]
    exact Nat.mul_le_mul_right _ hk
  obtain ⟨hlt, -⟩ := roundMag_le_pow hn one_pos hbound
  obtain ⟨one, -, hone⟩ := exists_unitsOf_eq_pow fmt (Nat.zero_le 127)
  rw [zero_add] at hone
  have hle : one ≤ roundMag fmt (k * 2 ^ fmt.quantum) 1 := by
    refine (roundMag_nearest fmt _ 1 one_pos).le_of_ge ?_
    rw [Nat.cast_one, div_one, hone]
    exact_mod_cast Nat.le_mul_of_pos_left _ hpos
  refine ⟨decide ((k : Int) < 0), _, ?_, hone ▸ (unitsOf_strictMono fmt).monotone hle⟩
  rw [ofInt, Int.natAbs_natCast, roundTo_eq, if_pos hlt]

theorem fmul_atMostPow {x y : FloatVal} {i j : Nat} (hx : x.AtMostPow fmt i) (hy : y.AtMostPow fmt j)
    (hij : i + j = n) : (fmul fmt x y).AtMostPow fmt n := by
  obtain ⟨na, ma, rfl, ha⟩ := hx
  obtain ⟨nb, mb, rfl, hb⟩ := hy
  refine roundTo_atMostPow hn _ (Nat.two_pow_pos _) ?_
  calc unitsOf fmt ma * unitsOf fmt mb ≤ 2 ^ (i + fmt.quantum) * 2 ^ (j + fmt.quantum) :=
        Nat.mul_le_mul ha hb
    _ = 2 ^ (n + fmt.quantum) * 2 ^ fmt.quantum := by rw [← hij]; ring

theorem fdiv_atMostPow {x y : FloatVal} (hx : x.AtMostPow fmt n) (hy : y.AtLeastOne fmt) :
    (fdiv fmt x y).AtMostPow fmt n := by
  obtain ⟨na, ma, rfl, ha⟩ := hx
  obtain ⟨nb, mb, rfl, hb⟩ := hy
  have hub : 0 < unitsOf fmt mb := (Nat.two_pow_pos _).trans_le hb
  have hmb : mb ≠ 0 := by rintro rfl; simp at hub
  have hround := roundTo_atMostPow (fmt := fmt) hn (na ^^ nb) hub (Nat.mul_le_mul ha hb)
  simpa [fdiv, hmb] using hround

theorem fadd_atMostPow {x y : FloatVal} {i j : Nat} (hx : x.AtMostPow fmt i) (hy : y.AtMostPow fmt j)
    (hi : i < n) (hj : j < n) : (fadd fmt x y).AtMostPow fmt n := by
  obtain ⟨na, ma, rfl, ha⟩ := hx
  obtain ⟨nb, mb, rfl, hb⟩ := hy
  have hhalf {k : Nat} (hk : k < n) : 2 * 2 ^ (k + fmt.quantum) ≤ 2 ^ (n + fmt.quantum) := by
    rw [← pow_succ']
    exact Nat.pow_le_pow_right two_pos (by omega)
  have hi := hhalf hi
  have hj := hhalf hj
  change (addFinite fmt na ma nb mb).AtMostPow fmt n
  unfold addFinite
  simp only
  split
  · exact roundTo_atMostPow hn _ one_pos (by omega)
  · split
    · exact roundTo_atMostPow hn _ one_pos (by omega)
    · split
      · exact roundTo_atMostPow hn _ one_pos (by omega)
      · exact ⟨_, _, rfl, by simp⟩

end Bounds

theorem natAbs_toInt_le {w : Nat} (x : BitVec w) : x.toInt.natAbs ≤ 2 ^ (w - 1) := by
  have hlt := x.toInt_lt
  have hle := x.le_toInt
  zify
  exact abs_le.2 ⟨hle, hlt.le⟩

theorem ofInt_toInt_atMostPow (fmt : Fmt) {w : Nat} (hw : w - 1 ≤ 127) (x : BitVec w) :
    (ofInt fmt x.toInt).AtMostPow fmt (w - 1) := ofInt_atMostPow hw (natAbs_toInt_le x)

/-- The constant 2 of the temperature formula is at least 1. -/
theorem fconst_two_atLeastOne (fmt : Fmt) : (fconst fmt false 2 1).AtLeastOne fmt :=
  ofInt_atLeastOne (n := 1) (k := 2) (by decide) two_pos le_rfl

/-- A finite datum is what its pattern stands for. -/
theorem FloatVal.ofBits_toBits_of_finite {fmt : Fmt} {x : FloatVal} (hw : x.wf fmt = true)
    (hx : x.finite = true) : FloatVal.ofBits fmt (x.toBits fmt) = x := by
  cases x with
  | nan | inf => cases hx
  | fin neg mag => exact FloatVal.ofBits_toBits fmt neg mag (of_decide_eq_true hw)

end Sys2Proof

namespace Sys2Proof.Machine

/-! ### The compensation formulas -/

/-- A raw value over its scale factor (43_compensation R142, R144) is below `2 ^ 23`. -/
theorem scaled_atMostPow (fmt : Fmt) (raw : BitVec 24) {K : Nat} (hpos : 0 < K) (hK : K < 2 ^ 24) :
    (fdiv fmt (ofInt fmt raw.toInt) (ofInt fmt K)).AtMostPow fmt 23 :=
  fdiv_atMostPow (by decide) (ofInt_toInt_atMostPow fmt (by decide) raw)
    (ofInt_atLeastOne (n := 24) (by decide) hpos hK.le)

/-- The temperature is at most `2 ^ 35`. -/
theorem compTemp_atMostPow (fmt : Fmt) (raw : BitVec 24) {K : Nat} (hpos : 0 < K) (hK : K < 2 ^ 24)
    (c0 c1 : BitVec 12) : (compTemp fmt raw.toInt K c0.toInt c1.toInt).AtMostPow fmt 35 := by
  have coef (c : BitVec 12) : (ofInt fmt c.toInt).AtMostPow fmt 11 := ofInt_toInt_atMostPow fmt (by decide) c
  have t2 := fmul_atMostPow (n := 34) (by decide) (scaled_atMostPow fmt raw hpos hK) (coef c1) rfl
  have t3 := fdiv_atMostPow (by decide) (coef c0) (fconst_two_atLeastOne fmt)
  exact fadd_atMostPow (by decide) t2 t3 (by decide) (by decide)

/-- The pressure is at most `2 ^ 89`, by the bounds of its steps. -/
theorem compPres_atMostPow (fmt : Fmt) (rawP rawT : BitVec 24) {KP KT : Nat} (hKP0 : 0 < KP)
    (hKP : KP < 2 ^ 24) (hKT0 : 0 < KT) (hKT : KT < 2 ^ 24) (c : Coefs) :
    (compPres fmt rawP.toInt rawT.toInt KP KT c).AtMostPow fmt 89 := by
  have coef16 (c : BitVec 16) : (ofInt fmt c.toInt).AtMostPow fmt 15 :=
    ofInt_toInt_atMostPow fmt (by decide) c
  have coef20 (c : BitVec 20) : (ofInt fmt c.toInt).AtMostPow fmt 19 :=
    ofInt_toInt_atMostPow fmt (by decide) c
  have st := scaled_atMostPow fmt rawT hKT0 hKT
  have sp := scaled_atMostPow fmt rawP hKP0 hKP
  have a1 := fmul_atMostPow (n := 38) (by decide) sp (coef16 c.c30) rfl
  have a2 := fadd_atMostPow (n := 39) (by decide) (coef16 c.c20) a1 (by decide) (by decide)
  have a3 := fmul_atMostPow (n := 62) (by decide) sp a2 rfl
  have a4 := fadd_atMostPow (n := 63) (by decide) (coef20 c.c10) a3 (by decide) (by decide)
  have a := fmul_atMostPow (n := 86) (by decide) sp a4 rfl
  have b := fmul_atMostPow (n := 38) (by decide) st (coef16 c.c01) rfl
  have g1 := fmul_atMostPow (n := 46) (by decide) sp st rfl
  have g2 := fmul_atMostPow (n := 38) (by decide) sp (coef16 c.c21) rfl
  have g3 := fadd_atMostPow (n := 39) (by decide) (coef16 c.c11) g2 (by decide) (by decide)
  have cc := fmul_atMostPow (n := 85) (by decide) g1 g3 rfl
  have s1 := fadd_atMostPow (n := 87) (by decide) (coef20 c.c00) a (by decide) (by decide)
  have s2 := fadd_atMostPow (n := 88) (by decide) s1 b (by decide) (by decide)
  exact fadd_atMostPow (by decide) s2 cc (by decide) (by decide)

/-! ### Computed values are finite -/

theorem State.scaleOf_lt (s : State) (ch : Channel) : s.scaleOf ch < 2 ^ 24 := BitVec.isLt _

/-- With an admissible scale table every computed value is finite: the formulas' bounds, and the checks of
44_altitude R160. -/
theorem Computes.finite {s : State} {i : Instr} {r : FReg} {x : FloatVal} (h : Computes s i r x)
    (hadm : s.params.Admissible) : x.finite = true := by
  cases h with
  | compt => exact (compTemp_atMostPow _ _ (hadm _) (s.scaleOf_lt _) _ _).finite
  | compp =>
    exact (compPres_atMostPow _ _ _ (hadm _) (s.scaleOf_lt _) (hadm _) (s.scaleOf_lt _) _).finite
  | alt hx =>
    obtain ⟨-, hfin, -⟩ := altChecked_some _ _ _ _ hx
    exact hfin
  | sealvl hx =>
    obtain ⟨-, hfin, -⟩ := seaChecked_some _ _ _ _ hx
    exact hfin

/-- Settles O45: a floating register changes to the pattern of a computed value, which is finite, or under
`WRF`. -/
theorem onlyWrfWritesNonFinite : Obligations.OnlyWrfWritesNonFinite := by
  intro i s t r hadm hwrf hexec hne
  obtain hr | ⟨x, hx, hr⟩ | ⟨n, hi, -, -⟩ := exec_freg hexec r
  · exact absurd hr hne
  · have hfin := hx.finite hadm
    rw [hr, FloatVal.ofBits_toBits_of_finite hx.wf hfin]
    exact hfin
  · exact absurd hi (hwrf n)

end Sys2Proof.Machine
end

section
/-! PROOFS. The fields of `STATUS` and the reset state's values (10_state R34, R40). -/

namespace Sys2Proof.Machine

@[simp] theorem getLsbD_append_bit_zero {n : Nat} (x : BitVec n) (b : Bool) :
    (x ++ bit b).getLsbD 0 = b := by
  rw [BitVec.getLsbD_append, if_pos Nat.one_pos]
  cases b <;> rfl

@[simp] theorem getLsbD_append_bit_succ {n : Nat} (x : BitVec n) (b : Bool) (i : Nat) :
    (x ++ bit b).getLsbD (i + 1) = x.getLsbD i := by
  simp [bit, BitVec.getLsbD_append]

/-- Every field of `STATUS` stands in its place (10_state R34). -/
theorem statusWord_fields (e : Engine) :
    let w := statusWord e
    w.getLsbD 0 = e.calv ∧ w.getLsbD 1 = e.rawP.valid ∧ w.getLsbD 2 = e.rawT.valid
    ∧ w.getLsbD 3 = e.osP.valid ∧ w.getLsbD 4 = e.osT.valid
    ∧ w.getLsbD 5 = e.fT.valid ∧ w.getLsbD 6 = e.fP.valid ∧ w.getLsbD 7 = e.fA.valid
    ∧ w.getLsbD 8 = e.fS.valid ∧ w.getLsbD 9 = e.fH.valid
    ∧ w.extractLsb' 10 4 = e.err.code ∧ w.extractLsb' 14 3 = levelView e.osP
    ∧ w.extractLsb' 17 3 = levelView e.osT ∧ w.extractLsb' 20 12 = 0#12 := by
  unfold statusWord
  simp (disch := decide) only [getLsbD_append_bit_zero, getLsbD_append_bit_succ,
    BitVec.extractLsb'_append_eq_of_le, BitVec.extractLsb'_append_eq_right, BitVec.extractLsb'_eq_self,
    Nat.reduceSub, and_self]

/-- Settles O48: `RDSTAT` answers `STATUS`. -/
theorem rdstatAnswersStatus : Obligations.RdstatAnswersStatus :=
  fun s => ⟨statusWord s.eng, rfl, statusWord_fields s.eng⟩

/-- `fconst(1013.25)` in either format, the value `S` has at reset (10_state R40). -/
theorem standardPressure_bits : (fconst .binary32 false 101325 100).toBits .binary32 = 0x447D5000#64
    ∧ (fconst .binary64 false 101325 100).toBits .binary64 = 0x408FAA0000000000#64 := by decide +kernel

theorem resetWith_fS_val (p : Params) :
    (State.resetWith p).eng.fS.val = (fconst p.fmt false 101325 100).toBits p.fmt := rfl

theorem statusWord_reset (fmt : Fmt) : statusWord (Engine.reset fmt) = 0x00000100#32 := by
  simp [statusWord, levelView, bit, Engine.reset, Status.code]

/-- Settles O11: `S` is the standard pressure, evaluated in each format; the other values stand in the reset
table as they are. -/
theorem resetStateAsTabled : Obligations.ResetStateAsTabled := by
  intro p
  obtain ⟨h32, h64⟩ := standardPressure_bits
  exact ⟨rfl, rfl, rfl, rfl, rfl, rfl, rfl, rfl, rfl, rfl, rfl,
    fun hfmt => (resetWith_fS_val p).trans (by rw [hfmt, h32]),
    fun hfmt => (resetWith_fS_val p).trans (by rw [hfmt, h64]), statusWord_reset p.fmt⟩

end Sys2Proof.Machine
end

section
/-! PROOFS. The sensor space and the bus (20_memory): the frames, what a static image answers, which commands
reach the sensor, and the one stop of the machine. -/

namespace Sys2Proof.Machine

/-! ### The frames -/

/-- The outgoing frame of a read, in the terms of 20_memory R53: the address with the read flag, then zeros. -/
theorem readFrame_eq (a : BitVec 7) (n : Nat) :
    readFrame a n = (0x80#8 ||| a.setWidth 8) :: List.replicate n 0x00#8 := by
  have hflag : 1#1 ++ a = 0x80#8 ||| a.setWidth 8 := BitVec.append_def 1#1 a
  rw [readFrame, hflag]

/-- The outgoing frame of a write, in the terms of 20_memory R54: the read flag is clear. -/
theorem writeFrame_eq (a : BitVec 7) (v : Byte) : writeFrame a v = [a.setWidth 8, v] := by
  have hflag : 0#1 ++ a = a.setWidth 8 := (BitVec.setWidth_eq_append (by decide)).symm
  rw [writeFrame, hflag]

theorem frameAddr_readFrame (a : BitVec 7) (n : Nat) : frameAddr (readFrame a n) = a.toNat := by
  have hflag : (1#1 ++ a).toNat = 128 + a.toNat :=
    (BitVec.toNat_append 1#1 a).trans (Nat.shiftLeft_add_eq_or_of_lt a.isLt 1).symm
  have ha := a.isLt
  change (1#1 ++ a).toNat % 128 = a.toNat
  omega

/-- The read flag of a read's frame is set. -/
theorem readFrame_flag (a : BitVec 7) (n : Nat) : ((readFrame a n).headD 0#8).getLsbD 7 = true :=
  BitVec.getLsbD_append

/-- Settles O17: the frames are those of R53 and R54, an answer is as long as its frame, and the rest is how
the transactions are defined. -/
theorem memReadIsOneFramedTransaction : Obligations.MemReadIsOneFramedTransaction := by
  refine ⟨fun s a n => ?_, fun s a v => ?_, fun _ _ => rfl⟩
  · simp only [← readFrame_eq]
    exact ⟨rfl, rfl, fun f hf => by rw [s.answer_length _ f hf, readFrame_length],
      fun b => s.readData_length a n b⟩
  · simp only [← writeFrame_eq]
    exact ⟨rfl, rfl⟩

/-! ### The static image -/

/-- An image lists every address that it covers. -/
theorem Image.exists_read_of_covers {m : List Host.Cell} {a n i : Nat} (h : Image.covers m a n = true)
    (hi : i < n) : ∃ v, Image.read m (a + i) = some v :=
  Option.isSome_iff_exists.1 (List.all_eq_true.1 h i (List.mem_range.2 hi))

/-- The bytes that an image lists from `a` on. -/
def Image.bytes (m : List Host.Cell) (a n : Nat) : List Byte :=
  (List.range n).map fun i => (Image.read m (a + i)).getD 0#8

@[simp] theorem Image.bytes_length (m : List Host.Cell) (a n : Nat) : (Image.bytes m a n).length = n := by
  simp [Image.bytes]

theorem Image.bytes_getElem? {m : List Host.Cell} {a n i : Nat} (h : Image.covers m a n = true) (hi : i < n) :
    (Image.bytes m a n)[i]? = Image.read m (a + i) := by
  obtain ⟨v, hv⟩ := Image.exists_read_of_covers h hi
  simp [Image.bytes, hi, hv]

/-- With no script a listed address answers its byte. -/
theorem State.incomingByte_of_listed {s : State} {out : List Byte} {i : Nat} {v : Byte}
    (hscript : s.script = []) (hv : Image.read s.image (frameAddr out + i) = some v) :
    s.incomingByte out (i + 1) = v := by
  simp [State.incomingByte, hscript, hv]

/-- With no script a transfer whose addresses the image lists succeeds. -/
theorem State.transferFails_of_covers {s : State} {out : List Byte} (hscript : s.script = [])
    (h : Image.covers s.image (frameAddr out) (out.length - 1) = true) : s.transferFails out = false := by
  simp [State.transferFails, hscript, h]

/-- With no script a read that the image covers returns the image's bytes. -/
theorem State.readData_of_covers {s : State} {a : BitVec 7} {n : Nat} (hscript : s.script = [])
    (h : Image.covers s.image a.toNat n = true) : s.readData a n = some (Image.bytes s.image a.toNat n) := by
  have hok : s.transferFails (readFrame a n) = false :=
    State.transferFails_of_covers hscript (by simpa [frameAddr_readFrame] using h)
  have hbyte : ∀ i ∈ List.range n,
      s.incomingByte (readFrame a n) (i + 1) = (Image.read s.image (a.toNat + i)).getD 0#8 := by
    intro i hi
    obtain ⟨v, hv⟩ := Image.exists_read_of_covers h (List.mem_range.1 hi)
    rw [hv]
    exact State.incomingByte_of_listed hscript (by rwa [frameAddr_readFrame])
  simpa [State.readData, State.answer, hok, List.range_succ_eq_map, Image.bytes] using hbyte

/-- Settles O18: the answer is a function of the image alone, and a read leaves the image and the empty script
as they are. -/
theorem staticImageAnswersReads : Obligations.StaticImageAnswersReads := by
  intro s a n hscript _ hcov
  refine ⟨Image.bytes s.image a.toNat n, State.readData_of_covers hscript hcov, Image.bytes_length ..,
    fun i hi => Image.bytes_getElem? hcov hi, ?_⟩
  exact State.readData_of_covers (s := s.afterRead a n) (by simp [hscript]) hcov

/-! ### What a command does on the bus -/

section EndsAt

variable {u t : State} (h : EndsAt u t)
include h

theorem EndsAt.history : t.history = u.history := by obtain ⟨e, v, rfl⟩ | ⟨e, rfl⟩ := h <;> rfl
theorem EndsAt.script : t.script = u.script := by obtain ⟨e, v, rfl⟩ | ⟨e, rfl⟩ := h <;> rfl

end EndsAt

/-- A command that does not use the bus ends where it stands: the second case of `exec_cases` is not its. -/
theorem exec_endsAt_of_no_bus {i : Instr} (hbus : usesBus i = false) (s : State) :
    ∃ t, exec i s = .next t ∧ EndsAt s t := by
  cases i with
  | ldcal | ldrawp | ldrawt => cases hbus
  | sext12 | sext16 | sext20 | sext24 | rdstat => exact ⟨_, rfl, .respond ..⟩
  | setos | setraw => exact ⟨_, rfl, .write ..⟩
  | rdraw => exact ⟨_, rfl, .ite (.respond ..) (.raise ..)⟩
  | compt | compp => exact ⟨_, rfl, .ite (.raise ..) (.ite (.raise ..) (.write ..))⟩
  | alt | sealvl => exact ⟨_, rfl, .ite (.raise ..) (finishAltitude_endsAt ..)⟩
  | rdcoef | rdf =>
    refine ⟨_, rfl, ?_⟩
    split
    · exact .raise ..
    · exact .ite (.respond ..) (.raise ..)
  | wrf =>
    refine ⟨_, rfl, ?_⟩
    split
    · exact .raise ..
    · exact .write ..

/-- All a command can do on the bus: nothing, one read, or the sleep of `LDCAL`. -/
theorem exec_history_cases {i : Instr} {s t : State} (h : exec i s = .next t) :
    t.history = s.history
    ∨ (∃ a n, t.history = s.history ++ [.transfer (readFrame a n) (s.answer (readFrame a n))])
    ∨ t.history = s.history ++ [.sleep 20] := by
  obtain ⟨-, hend⟩ | ⟨-, a, n, hend⟩ | ⟨-, a, n, hend⟩ | ⟨-, u, p, rfl, rfl | ⟨a, n, rfl⟩⟩ :=
    exec_next_cases h
  · exact .inl hend.history
  · exact .inr (.inl ⟨a, n, hend.history⟩)
  · exact .inr (.inl ⟨a, n, hend.history⟩)
  · exact .inr (.inr rfl)
  · exact .inr (.inl ⟨a, n, rfl⟩)

theorem onlyReads_nil : OnlyReads [] := by simp [OnlyReads]

theorem onlyReads_sleep (ms : Nat) : OnlyReads [.sleep ms] := by simp [OnlyReads]

theorem onlyReads_read (a : BitVec 7) (n : Nat) (answer : Option (List Byte)) :
    OnlyReads [.transfer (readFrame a n) answer] := by
  intro e he out answer' heq
  obtain rfl := List.mem_singleton.1 he
  obtain ⟨rfl, -⟩ := BusEvent.transfer.inj heq
  exact readFrame_flag a n

/-- Settles O19: a command without the bus ends where it stands, and any other adds at most one read or one
sleep. -/
theorem onlyLoadsReachTheSensor : Obligations.OnlyLoadsReachTheSensor := by
  refine fun i s t h => ⟨fun hbus => ?_, ?_⟩
  · obtain ⟨t', ht, hend⟩ := exec_endsAt_of_no_bus hbus s
    obtain rfl := Host.Outcome.next.inj (ht.symm.trans h)
    exact ⟨hend.history, hend.script⟩
  · obtain hh | ⟨a, n, hh⟩ | hh := exec_history_cases h
    · exact ⟨[], by simpa using hh, onlyReads_nil⟩
    · exact ⟨_, hh, onlyReads_read a n _⟩
    · exact ⟨_, hh, onlyReads_sleep _⟩

/-! ### The one stop -/

/-- Only an address byte above 0x7F names no sensor register (20_memory R50). -/
theorem sensorAddr_eq_none_iff (a : Byte) : sensorAddr a = none ↔ 128 ≤ a.toNat := by
  have hmsb : a.getLsbD 7 = decide (128 ≤ a.toNat) := BitVec.msb_eq_decide a
  simp only [sensorAddr, hmsb, decide_eq_true_eq]
  split <;> simp_all

/-- The host's next action is an access to this address byte. -/
def State.HostAccesses (s : State) (a : Byte) (rest : List HostAction) : Prop :=
  s.pending = .readReg a :: rest ∨ ∃ v, s.pending = .writeReg a v :: rest

/-- A host move answers a next state, or stops at an access outside the sensor space. -/
theorem hostMove_next_or_stops (s : State) : (∃ t, hostMove s = .next t) ∨
    (hostMove s = .fault .noSuchAddress ∧ ∃ a rest, 128 ≤ a.toNat ∧ s.HostAccesses a rest) := by
  unfold hostMove
  split
  case h_1 => exact .inl ⟨_, rfl⟩
  case h_2 action rest hp =>
    cases action with
    | readReg a =>
      simp only
      split
      case h_1 ha => exact .inr ⟨rfl, a, rest, (sensorAddr_eq_none_iff a).1 ha, .inl hp⟩
      case h_2 => exact .inl ⟨_, rfl⟩
    | writeReg a v =>
      simp only
      split
      case h_1 ha => exact .inr ⟨rfl, a, rest, (sensorAddr_eq_none_iff a).1 ha, .inr ⟨v, hp⟩⟩
      case h_2 => exact .inl ⟨_, rfl⟩
    | command | setMode | configureChannel | sensorReset | waitSensorReady | waitMeasurement
    | checkProductId => exact .inl ⟨_, rfl⟩

/-- Settles O8: `RST`, an illegal word and every command answer a next state, and what is left is the host's
move. -/
theorem onlyHostAddressStops : Obligations.OnlyHostAddressStops := by
  intro s
  cases hr : s.rstAsserted with
  | true => exact .inl ⟨_, if_pos hr⟩
  | false =>
    cases hcw : s.cw with
    | none =>
      rw [step_of_port_free hr hcw]
      refine (hostMove_next_or_stops s.tickRst).imp_right fun ⟨hstop, a, rest, ha, hacc⟩ => ?_
      exact ⟨hstop, rfl, rfl, a, rest, ha, hacc⟩
    | some w =>
      cases hw : decode w with
      | ok i =>
        rw [step_of_decode hr hcw hw]
        exact .inl (exec_total i s.tickRst)
      | error e => exact .inl ⟨s.tickRst.raise .illegalCommand, by simp [step, hr, hcw, hw]⟩

end Sys2Proof.Machine
end

section
/-! PROOFS. The decoder inverts the encoder and the encoder the decoder: a word means a command exactly when
the command is well-formed and the word is its encoding (30_encoding R82 to R84). -/

namespace Sys2Proof

/-! ### A narrow operand in `imm` -/

/-- The bits of `imm` at the operand's own positions are the operand. -/
@[simp] theorem extractLsb'_setWidth_low {n : Nat} (hn : n ≤ 24) (v : BitVec n) :
    (v.setWidth 24).extractLsb' 0 n = v := by
  rw [BitVec.extractLsb'_setWidth_of_le (by omega), BitVec.extractLsb'_eq_self]

/-- A narrow operand leaves the rest of `imm` zero. -/
@[simp] theorem extractLsb'_setWidth_high {n : Nat} (k : Nat) (v : BitVec n) :
    (v.setWidth 24).extractLsb' n k = 0#k := by
  ext j hj
  simp [BitVec.getElem_extractLsb']

/-- The upper bits of `imm` are zero exactly when its number fits the operand below them. -/
theorem extractLsb'_high_eq_zero_iff {n k : Nat} (hnk : n + k = 24) (imm : BitVec 24) :
    imm.extractLsb' n k = 0#k ↔ imm.toNat < 2 ^ n := by
  have hdiv : imm.toNat / 2 ^ n < 2 ^ k := by
    rw [Nat.div_lt_iff_lt_mul (Nat.two_pow_pos n), ← Nat.pow_add, Nat.add_comm k, hnk]
    exact imm.isLt
  rw [← BitVec.toNat_inj, BitVec.extractLsb'_toNat, Nat.shiftRight_eq_div_pow, Nat.mod_eq_of_lt hdiv,
    BitVec.toNat_zero, Nat.div_eq_zero_iff_lt (Nat.two_pow_pos n)]

/-- An `imm` whose upper bits are zero is nothing but its narrow operand. -/
theorem setWidth_extractLsb'_low {n k : Nat} {imm : BitVec 24} (hnk : n + k = 24)
    (h : imm.extractLsb' n k = 0#k) : (imm.extractLsb' 0 n).setWidth 24 = imm := by
  have hlt := (extractLsb'_high_eq_zero_iff hnk imm).1 h
  apply BitVec.eq_of_toNat_eq
  simp [Nat.mod_eq_of_lt hlt, Nat.mod_eq_of_lt imm.isLt]

/-! ### The channel operand -/

@[simp] theorem channelOf_selOfChannel (ch : Channel) : channelOf (selOfChannel ch) = .ok ch := by
  cases ch <;> rfl

theorem selOfChannel_of_channelOf {sel : BitVec 4} {ch : Channel} (h : channelOf sel = .ok ch) :
    selOfChannel ch = sel := by
  unfold channelOf at h
  (repeat' split at h) <;> cases h <;> exact Eq.symm ‹_›

/-! ### What each part of the decoder answers -/

/-- `i` has an encoding, and it is the word of these three fields. -/
def Instr.HasFields (i : Instr) (op sel : BitVec 4) (imm : BitVec 24) : Prop :=
  i.WellFormed ∧ encode i = wordOf op sel imm

/-- The one form of every answer with a narrow operand: it is the command of that operand. -/
theorem hasFields_of_narrow {n k : Nat} (hnk : n + k = 24) {f : BitVec n → Instr} {op sel : BitVec 4}
    (hf : ∀ v, (f v).HasFields op sel (v.setWidth 24)) {imm : BitVec 24} {i : Instr}
    (h : (if imm.extractLsb' n k ≠ 0#k then Except.error DecodeError.nonzeroImm
      else .ok (f (imm.extractLsb' 0 n))) = .ok i) : i.HasFields op sel imm := by
  split at h
  case isTrue => cases h
  case isFalse himm =>
    cases h
    simpa only [setWidth_extractLsb'_low hnk (not_not.1 himm)] using hf (imm.extractLsb' 0 n)

theorem hasFields_of_decodeSext {sel : BitVec 4} {imm : BitVec 24} {i : Instr}
    (h : decodeSext sel imm = .ok i) : i.HasFields 0x1#4 sel imm := by
  unfold decodeSext at h
  split at h
  case isTrue hsel => subst hsel; exact hasFields_of_narrow (f := .sext12) rfl (fun _ => ⟨rfl, rfl⟩) h
  split at h
  case isTrue hsel => subst hsel; exact hasFields_of_narrow (f := .sext16) rfl (fun _ => ⟨rfl, rfl⟩) h
  split at h
  case isTrue hsel => subst hsel; exact hasFields_of_narrow (f := .sext20) rfl (fun _ => ⟨rfl, rfl⟩) h
  split at h
  case isTrue hsel => subst hsel; cases h; exact ⟨rfl, rfl⟩
  case isFalse => cases h

theorem hasFields_of_decodePlain {op sel : BitVec 4} {imm : BitVec 24} {i j : Instr}
    (hi : i.HasFields op 0#4 0#24) (h : decodePlain sel imm i = .ok j) : j.HasFields op sel imm := by
  obtain ⟨rfl, rfl, rfl⟩ := Machine.decodePlain_eq_ok h
  exact hi

theorem hasFields_of_decodeIndexed {bound : Nat} {op sel : BitVec 4} {imm : BitVec 24}
    {f : BitVec 4 → Instr} {i : Instr} (hf : sel.toNat ≤ bound → (f sel).HasFields op sel 0#24)
    (h : decodeIndexed bound sel imm f = .ok i) : i.HasFields op sel imm := by
  unfold decodeIndexed at h
  split at h
  case isTrue => cases h
  case isFalse hsel =>
    split at h
    case isTrue => cases h
    case isFalse himm => cases h; exact not_not.1 himm ▸ hf (not_lt.1 hsel)

theorem hasFields_of_decodeSetos {sel : BitVec 4} {imm : BitVec 24} {i : Instr}
    (h : decodeSetos sel imm = .ok i) : i.HasFields 0x4#4 sel imm := by
  unfold decodeSetos at h
  split at h
  case h_1 => cases h
  case h_2 ch hch =>
    obtain rfl := selOfChannel_of_channelOf hch
    exact hasFields_of_narrow (f := .setos ch) rfl (fun _ => ⟨rfl, rfl⟩) h

theorem hasFields_of_decodeSetraw {sel : BitVec 4} {imm : BitVec 24} {i : Instr}
    (h : decodeSetraw sel imm = .ok i) : i.HasFields 0x5#4 sel imm := by
  unfold decodeSetraw at h
  split at h
  case h_1 => cases h
  case h_2 ch hch =>
    obtain rfl := selOfChannel_of_channelOf hch
    cases h
    exact ⟨rfl, rfl⟩

theorem hasFields_of_decodeLdraw {sel : BitVec 4} {imm : BitVec 24} {i : Instr}
    (h : decodeLdraw sel imm = .ok i) : i.HasFields 0x6#4 sel imm := by
  unfold decodeLdraw at h
  split at h
  case h_1 => cases h
  case h_2 ch hch =>
    obtain rfl := selOfChannel_of_channelOf hch
    split at h
    case isTrue => cases h
    case isFalse himm => cases ch <;> cases h <;> exact ⟨rfl, not_not.1 himm ▸ rfl⟩

theorem hasFields_of_decodeRdraw {sel : BitVec 4} {imm : BitVec 24} {i : Instr}
    (h : decodeRdraw sel imm = .ok i) : i.HasFields 0x7#4 sel imm := by
  unfold decodeRdraw at h
  split at h
  case h_1 => cases h
  case h_2 ch hch =>
    obtain rfl := selOfChannel_of_channelOf hch
    split at h
    case isTrue => cases h
    case isFalse himm => cases h; exact ⟨rfl, not_not.1 himm ▸ rfl⟩

/-! ### What the whole decoder answers -/

theorem Instr.HasFields.of_toNat {i : Instr} {op op' sel : BitVec 4} {imm : BitVec 24}
    (h : i.HasFields op sel imm) (hop : op'.toNat = op.toNat) : i.HasFields op' sel imm :=
  BitVec.eq_of_toNat_eq hop ▸ h

/-- Whatever part of the decoder answers, it answers the command that the word's fields encode. -/
theorem hasFields_of_decode {w : Word} {i : Instr} (h : decode w = .ok i) :
    i.HasFields (opOf w) (selOf w) (immOf w) := by
  unfold decode at h
  simp only at h
  split at h
  case h_1 hop => exact (hasFields_of_decodeSext h).of_toNat hop
  case h_2 hop => exact (hasFields_of_decodePlain (op := 0x2#4) ⟨rfl, rfl⟩ h).of_toNat hop
  case h_3 hop =>
    exact (hasFields_of_decodeIndexed (op := 0x3#4) (f := .rdcoef)
      (fun hk => ⟨decide_eq_true hk, rfl⟩) h).of_toNat hop
  case h_4 hop => exact (hasFields_of_decodeSetos h).of_toNat hop
  case h_5 hop => exact (hasFields_of_decodeSetraw h).of_toNat hop
  case h_6 hop => exact (hasFields_of_decodeLdraw h).of_toNat hop
  case h_7 hop => exact (hasFields_of_decodeRdraw h).of_toNat hop
  case h_8 hop => exact (hasFields_of_decodePlain (op := 0x8#4) ⟨rfl, rfl⟩ h).of_toNat hop
  case h_9 hop => exact (hasFields_of_decodePlain (op := 0x9#4) ⟨rfl, rfl⟩ h).of_toNat hop
  case h_10 hop => exact (hasFields_of_decodePlain (op := 0xA#4) ⟨rfl, rfl⟩ h).of_toNat hop
  case h_11 hop => exact (hasFields_of_decodePlain (op := 0xB#4) ⟨rfl, rfl⟩ h).of_toNat hop
  case h_12 hop =>
    exact (hasFields_of_decodeIndexed (op := 0xC#4) (f := .wrf)
      (fun hr => ⟨decide_eq_true hr, rfl⟩) h).of_toNat hop
  case h_13 hop =>
    exact (hasFields_of_decodeIndexed (op := 0xD#4) (f := .rdf)
      (fun hr => ⟨decide_eq_true hr, rfl⟩) h).of_toNat hop
  case h_14 hop => exact (hasFields_of_decodePlain (op := 0xE#4) ⟨rfl, rfl⟩ h).of_toNat hop
  case h_15 => cases h

theorem encode_of_decode {w : Word} {i : Instr} (h : decode w = .ok i) : i.WellFormed ∧ encode i = w := by
  obtain ⟨hwf, henc⟩ := hasFields_of_decode h
  exact ⟨hwf, henc.trans (wordOf_fields w)⟩

/-! ### What the word of a command decodes to -/

theorem decodeIndexed_eq_ok {bound : Nat} {sel : BitVec 4} (h : sel.toNat ≤ bound)
    (f : BitVec 4 → Instr) : decodeIndexed bound sel 0#24 f = .ok (f sel) := by
  simp [decodeIndexed, h]

/-- The decoder inverts the encoder, for every command and every operand that has a word. -/
theorem decode_encode {i : Instr} (h : i.WellFormed) : decode (encode i) = .ok i := by
  cases i with
  | sext12 v => simp [decode, encode, decodeSext]
  | sext16 v => simp [decode, encode, decodeSext]
  | sext20 v => simp [decode, encode, decodeSext]
  | sext24 v => simp [decode, encode, decodeSext]
  | rdcoef k => simpa [decode, encode] using decodeIndexed_eq_ok (of_decide_eq_true h) .rdcoef
  | setos ch level => simp [decode, encode, decodeSetos]
  | setraw ch v => simp [decode, encode, decodeSetraw]
  | rdraw ch => simp [decode, encode, decodeRdraw]
  | wrf r => simpa [decode, encode] using decodeIndexed_eq_ok (of_decide_eq_true h) .wrf
  | rdf r => simpa [decode, encode] using decodeIndexed_eq_ok (of_decide_eq_true h) .rdf
  | ldcal | ldrawp | ldrawt | compt | compp | alt | sealvl | rdstat => rfl

/-- Settles O1, by cases on the command: its operands come back out of the fields they were put into. -/
theorem decodeOfEncode : Obligations.DecodeOfEncode := fun _ => decode_encode

/-- Settles O2, by the part of the decoder that answers: its checks leave no bit of the word free but the
command's operands. -/
theorem encodeOfDecode : Obligations.EncodeOfDecode := fun _ _ => encode_of_decode

/-- Settles O5: each of the words is the encoding of its command. -/
theorem sampleWordsDecode : Obligations.SampleWordsDecode :=
  ⟨decode_encode (i := .sext12 0x800#12) rfl, decode_encode (i := .sext24 0xFFFFFF#24) rfl,
    decode_encode (i := .ldcal) rfl, decode_encode (i := .rdcoef 3#4) rfl,
    decode_encode (i := .setos .pressure 3#3) rfl, decode_encode (i := .setraw .temperature 131072#24) rfl,
    decode_encode (i := .ldrawt) rfl, decode_encode (i := .compt) rfl, decode_encode (i := .wrf 3#4) rfl,
    decode_encode (i := .rdstat) rfl⟩

end Sys2Proof
end

section
/-! PROOFS. The decoder against the opcode map (30_encoding R83): a command's word spells the row of its
mnemonic, a row's words all decode to a command of that mnemonic, and mnemonics tell the rows apart. -/

namespace Sys2Proof

/-! ### From a command to its row -/

theorem spellsItsRow (i : Instr) : Laws.SpellsItsRow.Statement i := by
  cases i with
  | sext12 v => exact Laws.SpellsItsRow.sext12 v
  | sext16 v => exact Laws.SpellsItsRow.sext16 v
  | sext20 v => exact Laws.SpellsItsRow.sext20 v
  | sext24 v => exact Laws.SpellsItsRow.sext24 v
  | ldcal => exact Laws.SpellsItsRow.ldcal
  | rdcoef k => exact Laws.SpellsItsRow.rdcoef k
  | setos ch level => exact Laws.SpellsItsRow.setos ch level
  | setraw ch v => exact Laws.SpellsItsRow.setraw ch v
  | ldrawp => exact Laws.SpellsItsRow.ldrawp
  | ldrawt => exact Laws.SpellsItsRow.ldrawt
  | rdraw ch => exact Laws.SpellsItsRow.rdraw ch
  | compt => exact Laws.SpellsItsRow.compt
  | compp => exact Laws.SpellsItsRow.compp
  | alt => exact Laws.SpellsItsRow.alt
  | sealvl => exact Laws.SpellsItsRow.sealvl
  | wrf r => exact Laws.SpellsItsRow.wrf r
  | rdf r => exact Laws.SpellsItsRow.rdf r
  | rdstat => exact Laws.SpellsItsRow.rdstat

/-- A mnemonic names one row. -/
theorem eq_of_mnemonic_eq : ∀ a ∈ opcodeRows, ∀ b ∈ opcodeRows, a.mnemonic = b.mnemonic → a = b := by
  decide

theorem spells_of_decode {w : Word} {i : Instr} {row : OpcodeRow} (hrow : row ∈ opcodeRows)
    (h : decode w = .ok i) (hi : i.mnemonic = row.mnemonic) : row.spells w = true := by
  obtain ⟨hwf, rfl⟩ := encode_of_decode h
  obtain ⟨row', hrow', hmn, hspells⟩ := spellsItsRow i hwf
  rwa [eq_of_mnemonic_eq row hrow row' hrow' (hi.symm.trans hmn.symm)]

/-! ### From a row to its command -/

/-- A word that spells a row agrees with the row's pattern field by field, under the row's mask. -/
theorem fields_of_spells {row : OpcodeRow} {op sel : BitVec 4} {imm : BitVec 24}
    (h : row.spells (wordOf op sel imm) = true) :
    op &&& opOf row.mask = opOf row.pattern ∧ sel &&& selOf row.mask = selOf row.pattern
      ∧ imm &&& immOf row.mask = immOf row.pattern ∧ sel.toNat ≤ row.selMax := by
  simp only [OpcodeRow.spells, Bool.and_eq_true, decide_eq_true_eq, selOf_wordOf] at h
  obtain ⟨hmask, hmax⟩ := h
  rw [← wordOf_fields row.mask, Laws.SpellsItsRow.wordOf_and] at hmask
  rw [← hmask]
  simpa using hmax

theorem and_whole_field (b : BitVec 4) : b &&& 0xF#4 = b := BitVec.and_allOnes

theorem and_whole_imm (imm : BitVec 24) : imm &&& 0xFFFFFF#24 = imm := BitVec.and_allOnes

/-- A selector masked to its lowest bit is a channel. -/
theorem exists_selOfChannel {sel : BitVec 4} (h : sel &&& 0xE#4 = 0#4) : ∃ ch, selOfChannel ch = sel := by
  have hsel : 0#4 = sel ∨ 1#4 = sel := by revert sel; decide
  exact hsel.elim (⟨.pressure, ·⟩) (⟨.temperature, ·⟩)

/-- An `imm` whose upper bits are masked to zero is a narrow operand. -/
theorem exists_narrow {n k : Nat} (hnk : n + k = 24) {imm mask : BitVec 24}
    (hmask : mask.extractLsb' n k = BitVec.allOnes k) (h : imm &&& mask = 0#24) :
    ∃ v : BitVec n, v.setWidth 24 = imm := by
  have hhigh := congrArg (BitVec.extractLsb' n k) h
  rw [BitVec.extractLsb'_and, hmask, BitVec.and_allOnes, BitVec.extractLsb'_zero] at hhigh
  exact ⟨_, setWidth_extractLsb'_low hnk hhigh⟩

/-- Every word that spells a row is the word of a command with the row's mnemonic: its operands are the bits
that the row's mask leaves free. The cases are the rows, in the table's order. -/
theorem exists_encode_of_spells {row : OpcodeRow} {w : Word} (hrow : row ∈ opcodeRows)
    (h : row.spells w = true) : ∃ i : Instr, i.WellFormed ∧ encode i = w ∧ i.mnemonic = row.mnemonic := by
  rw [← wordOf_fields w] at h ⊢
  obtain ⟨hop, hsel, himm, hmax⟩ := fields_of_spells h
  clear h
  generalize opOf w = op at *
  generalize selOf w = sel at *
  generalize immOf w = imm at *
  simp only [opcodeRows, List.mem_cons, List.not_mem_nil, or_false] at hrow
  rcases hrow with rfl | rfl | rfl | rfl | rfl | rfl | rfl | rfl | rfl | rfl | rfl | rfl | rfl | rfl | rfl
    | rfl | rfl | rfl <;>
    simp only [opOf, selOf, immOf, BitVec.reduceExtractLsb', and_whole_field, and_whole_imm]
      at hop hsel himm <;>
    subst hop
  · obtain ⟨v, rfl⟩ := exists_narrow (n := 12) (k := 12) rfl rfl himm
    subst hsel; exact ⟨.sext12 v, rfl, rfl, rfl⟩
  · obtain ⟨v, rfl⟩ := exists_narrow (n := 16) (k := 8) rfl rfl himm
    subst hsel; exact ⟨.sext16 v, rfl, rfl, rfl⟩
  · obtain ⟨v, rfl⟩ := exists_narrow (n := 20) (k := 4) rfl rfl himm
    subst hsel; exact ⟨.sext20 v, rfl, rfl, rfl⟩
  · subst hsel; exact ⟨.sext24 imm, rfl, rfl, rfl⟩
  · subst hsel himm; exact ⟨.ldcal, rfl, rfl, rfl⟩
  · subst himm; exact ⟨.rdcoef sel, decide_eq_true hmax, rfl, rfl⟩
  · obtain ⟨ch, rfl⟩ := exists_selOfChannel hsel
    obtain ⟨level, rfl⟩ := exists_narrow (n := 3) (k := 21) rfl rfl himm
    exact ⟨.setos ch level, rfl, rfl, rfl⟩
  · obtain ⟨ch, rfl⟩ := exists_selOfChannel hsel
    exact ⟨.setraw ch imm, rfl, rfl, rfl⟩
  · subst hsel himm; exact ⟨.ldrawp, rfl, rfl, rfl⟩
  · subst hsel himm; exact ⟨.ldrawt, rfl, rfl, rfl⟩
  · obtain ⟨ch, rfl⟩ := exists_selOfChannel hsel
    subst himm; exact ⟨.rdraw ch, rfl, rfl, rfl⟩
  · subst hsel himm; exact ⟨.compt, rfl, rfl, rfl⟩
  · subst hsel himm; exact ⟨.compp, rfl, rfl, rfl⟩
  · subst hsel himm; exact ⟨.alt, rfl, rfl, rfl⟩
  · subst hsel himm; exact ⟨.sealvl, rfl, rfl, rfl⟩
  · subst himm; exact ⟨.wrf sel, decide_eq_true hmax, rfl, rfl⟩
  · subst himm; exact ⟨.rdf sel, decide_eq_true hmax, rfl, rfl⟩
  · subst hsel himm; exact ⟨.rdstat, rfl, rfl, rfl⟩

/-- A row of the opcode map is spelled by exactly the words that decode to its mnemonic. -/
theorem spells_iff {row : OpcodeRow} (hrow : row ∈ opcodeRows) (w : Word) :
    row.spells w = true ↔ ∃ i, decode w = .ok i ∧ i.mnemonic = row.mnemonic := by
  constructor
  · intro h
    obtain ⟨i, hwf, rfl, hi⟩ := exists_encode_of_spells hrow h
    exact ⟨i, decode_encode hwf, hi⟩
  · rintro ⟨i, hw, hi⟩
    exact spells_of_decode hrow hw hi

/-- A word decodes to one mnemonic, so it spells one row. -/
theorem eq_of_spells {a b : OpcodeRow} {w : Word} (ha : a ∈ opcodeRows) (hb : b ∈ opcodeRows)
    (hwa : a.spells w = true) (hwb : b.spells w = true) : a = b := by
  obtain ⟨i, hi, hia⟩ := (spells_iff ha w).1 hwa
  obtain ⟨j, hj, hjb⟩ := (spells_iff hb w).1 hwb
  obtain rfl : i = j := Except.ok.inj (hi.symm.trans hj)
  exact eq_of_mnemonic_eq a ha b hb (hia.symm.trans hjb)

/-- Settles O3: the words of a row are the encodings of its mnemonic's commands; and since a word decodes to
one command, the rows are disjoint. -/
theorem decoderFollowsOpcodeMap : Obligations.DecoderFollowsOpcodeMap :=
  ⟨fun w _ hrow => spells_iff hrow w, fun _ _ _ => eq_of_spells⟩

end Sys2Proof
end

section
/-! PROOFS. The illegal words (30_encoding R85): what each part of the decoder rejects, in numbers, and the
step that a rejected word makes. -/

namespace Sys2Proof

/-! ### What each part of the decoder rejects -/

/-- This part of the decoder finds no command in the word. -/
def Rejects (x : Except DecodeError Instr) : Prop := ∃ e, x = .error e

@[simp] theorem rejects_error (e : DecodeError) : Rejects (.error e) := ⟨e, rfl⟩

@[simp] theorem not_rejects_ok (i : Instr) : ¬ Rejects (.ok i) := fun ⟨_, h⟩ => nomatch h

/-- A check rejects the word, or leaves it to what follows. -/
theorem rejects_ite {c : Prop} [Decidable c] {e : DecodeError} {x : Except DecodeError Instr} :
    Rejects (if c then .error e else x) ↔ c ∨ Rejects x := by
  split <;> simp_all

theorem ne_zero_iff_toNat_ne_zero {n : Nat} (b : BitVec n) : b ≠ 0#n ↔ b.toNat ≠ 0 :=
  BitVec.toNat_inj.symm.not

theorem extractLsb'_high_ne_zero_iff {n k : Nat} (hnk : n + k = 24) (imm : BitVec 24) :
    imm.extractLsb' n k ≠ 0#k ↔ 2 ^ n ≤ imm.toNat := by
  rw [Ne, extractLsb'_high_eq_zero_iff hnk, not_lt]

theorem rejects_decodePlain (sel : BitVec 4) (imm : BitVec 24) (i : Instr) :
    Rejects (decodePlain sel imm i) ↔ sel.toNat ≠ 0 ∨ imm.toNat ≠ 0 := by
  simp only [decodePlain, rejects_ite, ne_zero_iff_toNat_ne_zero, not_rejects_ok, or_false]

theorem rejects_decodeIndexed (bound : Nat) (sel : BitVec 4) (imm : BitVec 24) (f : BitVec 4 → Instr) :
    Rejects (decodeIndexed bound sel imm f) ↔ bound < sel.toNat ∨ imm.toNat ≠ 0 := by
  simp only [decodeIndexed, rejects_ite, ne_zero_iff_toNat_ne_zero, not_rejects_ok, or_false]

theorem rejects_decodeSext (sel : BitVec 4) (imm : BitVec 24) :
    Rejects (decodeSext sel imm) ↔ 3 < sel.toNat ∨ (sel.toNat = 0 ∧ 2 ^ 12 ≤ imm.toNat)
      ∨ (sel.toNat = 1 ∧ 2 ^ 16 ≤ imm.toNat) ∨ (sel.toNat = 2 ∧ 2 ^ 20 ≤ imm.toNat) := by
  unfold decodeSext
  split
  case isTrue h0 => subst h0; rw [rejects_ite, extractLsb'_high_ne_zero_iff rfl]; simp
  split
  case isTrue h1 => subst h1; rw [rejects_ite, extractLsb'_high_ne_zero_iff rfl]; simp
  split
  case isTrue h2 => subst h2; rw [rejects_ite, extractLsb'_high_ne_zero_iff rfl]; simp
  split
  case isTrue h3 => subst h3; simp
  case isFalse h0 h1 h2 h3 =>
    have hsel : 3 < sel.toNat := by bv_omega
    simp [hsel]

/-- A selector is a channel's, or it is above 1 and no channel's. -/
theorem channelOf_cases (sel : BitVec 4) :
    (∃ ch, channelOf sel = .ok ch ∧ sel.toNat ≤ 1) ∨ (channelOf sel = .error .badSelector ∧ 1 < sel.toNat) := by
  by_cases h0 : sel = 0#4
  · exact .inl ⟨.pressure, h0 ▸ rfl, by simp [h0]⟩
  by_cases h1 : sel = 1#4
  · exact .inl ⟨.temperature, h1 ▸ rfl, by simp [h1]⟩
  · exact .inr ⟨by simp [channelOf, h0, h1], by bv_omega⟩

theorem rejects_decodeSetos (sel : BitVec 4) (imm : BitVec 24) :
    Rejects (decodeSetos sel imm) ↔ 1 < sel.toNat ∨ 2 ^ 3 ≤ imm.toNat := by
  obtain ⟨ch, hch, hsel⟩ | ⟨hch, hsel⟩ := channelOf_cases sel
  · simp only [decodeSetos, hch, rejects_ite, extractLsb'_high_ne_zero_iff (n := 3) (k := 21) rfl,
      not_rejects_ok, not_lt.2 hsel, or_false, false_or]
  · simp [decodeSetos, hch, hsel]

theorem rejects_decodeSetraw (sel : BitVec 4) (imm : BitVec 24) :
    Rejects (decodeSetraw sel imm) ↔ 1 < sel.toNat := by
  obtain ⟨ch, hch, hsel⟩ | ⟨hch, hsel⟩ := channelOf_cases sel
  · simp [decodeSetraw, hch, hsel]
  · simp [decodeSetraw, hch, hsel]

theorem rejects_decodeLdraw (sel : BitVec 4) (imm : BitVec 24) :
    Rejects (decodeLdraw sel imm) ↔ 1 < sel.toNat ∨ imm.toNat ≠ 0 := by
  obtain ⟨ch, hch, hsel⟩ | ⟨hch, hsel⟩ := channelOf_cases sel
  · cases ch <;>
      simp only [decodeLdraw, hch, rejects_ite, ne_zero_iff_toNat_ne_zero, not_rejects_ok, not_lt.2 hsel,
        or_false, false_or]
  · simp [decodeLdraw, hch, hsel]

theorem rejects_decodeRdraw (sel : BitVec 4) (imm : BitVec 24) :
    Rejects (decodeRdraw sel imm) ↔ 1 < sel.toNat ∨ imm.toNat ≠ 0 := by
  obtain ⟨ch, hch, hsel⟩ | ⟨hch, hsel⟩ := channelOf_cases sel
  · simp only [decodeRdraw, hch, rejects_ite, ne_zero_iff_toNat_ne_zero, not_rejects_ok, not_lt.2 hsel,
      or_false, false_or]
  · simp [decodeRdraw, hch, hsel]

/-! ### What the whole decoder rejects -/

theorem toNat_opOf (w : Word) : (opOf w).toNat = w.toNat / 2 ^ 28 := by
  rw [opOf, BitVec.extractLsb'_toNat, Nat.shiftRight_eq_div_pow]
  omega

theorem toNat_selOf (w : Word) : (selOf w).toNat = w.toNat / 2 ^ 24 % 16 := by
  rw [selOf, BitVec.extractLsb'_toNat, Nat.shiftRight_eq_div_pow]

theorem toNat_immOf (w : Word) : (immOf w).toNat = w.toNat % 2 ^ 24 := by
  rw [immOf, BitVec.extractLsb'_toNat, Nat.shiftRight_zero]

/-- R85's list, on the numbers of a word's three fields. -/
def IllegalFields (op sel imm : Nat) : Prop :=
  op = 0x0 ∨ op = 0xF
    ∨ (op = 0x1 ∧ 3 < sel) ∨ (op = 0x3 ∧ 8 < sel)
    ∨ ((op = 0x4 ∨ op = 0x5 ∨ op = 0x6 ∨ op = 0x7) ∧ 1 < sel)
    ∨ ((op = 0xC ∨ op = 0xD) ∧ 4 < sel)
    ∨ ((op = 0x2 ∨ op = 0x8 ∨ op = 0x9 ∨ op = 0xA ∨ op = 0xB ∨ op = 0xE) ∧ sel ≠ 0)
    ∨ (op = 0x1 ∧ sel = 0 ∧ 2 ^ 12 ≤ imm) ∨ (op = 0x1 ∧ sel = 1 ∧ 2 ^ 16 ≤ imm)
    ∨ (op = 0x1 ∧ sel = 2 ∧ 2 ^ 20 ≤ imm) ∨ (op = 0x4 ∧ 2 ^ 3 ≤ imm)
    ∨ ((op = 0x2 ∨ op = 0x3 ∨ op = 0x6 ∨ op = 0x7 ∨ op = 0x8 ∨ op = 0x9 ∨ op = 0xA ∨ op = 0xB
        ∨ op = 0xC ∨ op = 0xD ∨ op = 0xE) ∧ imm ≠ 0)

theorem rejects_decode (w : Word) :
    IllegalFields (opOf w).toNat (selOf w).toNat (immOf w).toNat ↔ Rejects (decode w) := by
  unfold decode IllegalFields
  simp only
  split
  case h_1 hop => simp [hop, rejects_decodeSext]
  case h_2 hop => simp [hop, rejects_decodePlain]
  case h_3 hop => simp [hop, rejects_decodeIndexed]
  case h_4 hop => simp [hop, rejects_decodeSetos]
  case h_5 hop => simp [hop, rejects_decodeSetraw]
  case h_6 hop => simp [hop, rejects_decodeLdraw]
  case h_7 hop => simp [hop, rejects_decodeRdraw]
  case h_8 hop => simp [hop, rejects_decodePlain]
  case h_9 hop => simp [hop, rejects_decodePlain]
  case h_10 hop => simp [hop, rejects_decodePlain]
  case h_11 hop => simp [hop, rejects_decodePlain]
  case h_12 hop => simp [hop, rejects_decodeIndexed]
  case h_13 hop => simp [hop, rejects_decodeIndexed]
  case h_14 hop => simp [hop, rejects_decodePlain]
  case h_15 =>
    have hop : (opOf w).toNat = 0 ∨ (opOf w).toNat = 15 := by have := (opOf w).isLt; grind
    simp only [rejects_error, iff_true]
    exact hop.imp_right .inl

end Sys2Proof

namespace Sys2Proof.Machine

/-! ### What a rejected word does -/

theorem step_of_rejected {s : State} {w : Word} {e : DecodeError} (hr : s.rstAsserted = false)
    (hcw : s.cw = some w) (hw : decode w = .error e) : step s = .next (s.tickRst.raise .illegalCommand) := by
  simp [step, hr, hcw, hw]

/-- Settles O4: what the parts of the decoder reject is R85's list, and a rejected word goes through the one
error entry of the machine. -/
theorem illegalWordsRaiseIllegalCommand : Obligations.IllegalWordsRaiseIllegalCommand := by
  refine ⟨fun w => ?_, fun s w e => step_of_rejected⟩
  have hlist := rejects_decode w
  rw [toNat_opOf, toNat_selOf, toNat_immOf] at hlist
  exact hlist

end Sys2Proof.Machine
end

section
/-! PROOFS. The data word: no command but `WRF` reads it (30_encoding R80). -/

namespace Sys2Proof.Machine

/-! ### Operations that do not look at the data word -/

/-- The state with another data word at the port. -/
def State.withDin (s : State) (d : Pattern) : State := { s with din := d }

/-- `f` neither reads nor writes the data word. -/
def DinBlind (f : State → State) : Prop := ∀ (u : State) (d : Pattern), f (u.withDin d) = (f u).withDin d

theorem DinBlind.ite {c : State → Bool} {f g : State → State} (hc : ∀ u d, c (u.withDin d) = c u)
    (hf : DinBlind f) (hg : DinBlind g) : DinBlind fun u => if c u then f u else g u :=
  fun u d => by
    simp only [hc]
    split
    · exact hf u d
    · exact hg u d

theorem dinBlind_raise (x : Status) : DinBlind (State.raise · x) := fun _ _ => rfl

@[simp] theorem eng_withDin (u : State) (d : Pattern) : (u.withDin d).eng = u.eng := rfl

@[simp] theorem phase_withDin (u : State) (d : Pattern) : (u.withDin d).phase = u.phase := rfl

@[simp] theorem readData_withDin (u : State) (d : Pattern) (a : BitVec 7) (n : Nat) :
    (u.withDin d).readData a n = u.readData a n := rfl

theorem dinBlind_loadRaw (ch : Channel) : DinBlind (loadRaw ch) := fun u d => by
  simp only [loadRaw, readData_withDin]
  split <;> rfl

theorem dinBlind_pollCoefReady : DinBlind pollCoefReady := fun u d => by
  simp only [pollCoefReady, readData_withDin]
  split <;> rfl

theorem dinBlind_loadBlock : DinBlind loadBlock := fun u d => by
  simp only [loadBlock, readData_withDin]
  split <;> rfl

theorem dinBlind_ldcalStep : DinBlind ldcalStep := fun u d => by
  simp only [ldcalStep, phase_withDin]
  split
  · exact dinBlind_pollCoefReady u d
  · rfl
  · exact dinBlind_loadBlock u d

theorem dinBlind_finishAltitude (r : FReg) {x : State → Option FloatVal}
    (hx : ∀ u d, x (u.withDin d) = x u) : DinBlind fun u => finishAltitude r (x u) u := fun u d => by
  simp only [hx]
  cases x u <;> rfl

/-! ### The commands -/

/-- Every command but `WRF` is one operation that does not look at the data word. -/
theorem exec_dinBlind {i : Instr} (hi : ∀ r, i ≠ .wrf r) : ∃ f, DinBlind f ∧ ∀ u, exec i u = .next (f u) := by
  cases i with
  | sext12 v => exact ⟨_, fun _ _ => rfl, fun _ => rfl⟩
  | sext16 v => exact ⟨_, fun _ _ => rfl, fun _ => rfl⟩
  | sext20 v => exact ⟨_, fun _ _ => rfl, fun _ => rfl⟩
  | sext24 v => exact ⟨_, fun _ _ => rfl, fun _ => rfl⟩
  | ldcal => exact ⟨_, dinBlind_ldcalStep, fun _ => rfl⟩
  | rdcoef k =>
    refine ⟨_, fun u d => ?_, fun _ => rfl⟩
    simp only [eng_withDin]
    cases u.eng.coefs.read k with
    | none => rfl
    | some v => by_cases hv : u.eng.calv <;> simp only [hv] <;> rfl
  | setos ch level => exact ⟨_, fun _ _ => rfl, fun _ => rfl⟩
  | setraw ch v => exact ⟨_, fun _ _ => rfl, fun _ => rfl⟩
  | ldrawp => exact ⟨_, dinBlind_loadRaw .pressure, fun _ => rfl⟩
  | ldrawt => exact ⟨_, dinBlind_loadRaw .temperature, fun _ => rfl⟩
  | rdraw ch => exact ⟨_, .ite (fun _ _ => rfl) (fun _ _ => rfl) (fun _ _ => rfl), fun _ => rfl⟩
  | compt =>
    exact ⟨_, .ite (fun _ _ => rfl) (dinBlind_raise _)
      (.ite (fun _ _ => rfl) (dinBlind_raise _) fun _ _ => rfl), fun _ => rfl⟩
  | compp =>
    exact ⟨_, .ite (fun _ _ => rfl) (dinBlind_raise _)
      (.ite (fun _ _ => rfl) (dinBlind_raise _) fun _ _ => rfl), fun _ => rfl⟩
  | alt =>
    exact ⟨_, .ite (fun _ _ => rfl) (dinBlind_raise _) (dinBlind_finishAltitude .a fun _ _ => rfl),
      fun _ => rfl⟩
  | sealvl =>
    exact ⟨_, .ite (fun _ _ => rfl) (dinBlind_raise _) (dinBlind_finishAltitude .s fun _ _ => rfl),
      fun _ => rfl⟩
  | wrf r => exact absurd rfl (hi r)
  | rdf r =>
    refine ⟨_, fun u d => ?_, fun _ => rfl⟩
    simp only [eng_withDin]
    cases FReg.ofSel r with
    | none => rfl
    | some f => by_cases hv : (u.eng.freg f).valid <;> simp only [hv] <;> rfl
  | rdstat => exact ⟨_, fun _ _ => rfl, fun _ => rfl⟩

/-- Settles O9: the operation that the command is does the same with any data word beside it. -/
theorem dinIgnoredExceptByWrf : Obligations.DinIgnoredExceptByWrf := by
  intro i s d hi
  obtain ⟨f, hf, hexec⟩ := exec_dinBlind hi
  calc exec i (s.withDin d) = .next (f (s.withDin d)) := hexec _
    _ = .next ((f s).withDin d) := by rw [hf]
    _ = mapNext (·.withDin d) (exec i s) := by rw [hexec]; rfl

end Sys2Proof.Machine
end

section
/-! PROOFS. The sign-extension primitive is the signed reading of a bit vector (40_sign_extension R100, R105),
and the four commands answer it (R101 to R104). -/

namespace Sys2Proof.Machine

/-! ### The primitive -/

/-- The model's threshold is the sign bit: `sext` of a pattern's number is the pattern's signed value. -/
theorem sext_toNat {n : Nat} (x : BitVec n) : sext n x.toNat = x.toInt := by
  have hpos := Nat.two_pow_pos (n - 1)
  have hsign : x.msb = true ↔ x.toNat > 2 ^ (n - 1) - 1 := by
    rw [BitVec.msb_eq_decide, decide_eq_true_iff]
    omega
  simp only [sext, BitVec.toInt_eq_msb_cond, hsign, Nat.cast_pow, Nat.cast_ofNat]

/-- A number below `2^n` is a pattern's, so that `sext_toNat` speaks of it. -/
theorem exists_toNat_eq {n v : Nat} (hv : v < 2 ^ n) : ∃ x : BitVec n, x.toNat = v :=
  ⟨BitVec.ofNatLT v hv, rfl⟩

theorem sext_eq_toInt_ofNat {n v : Nat} (hv : v < 2 ^ n) : sext n v = (BitVec.ofNat n v).toInt := by
  obtain ⟨x, rfl⟩ := exists_toNat_eq hv
  rw [sext_toNat, BitVec.ofNat_toNat, BitVec.setWidth_eq]

theorem le_sext {n v : Nat} (hv : v < 2 ^ n) : -(2 ^ (n - 1) : Int) ≤ sext n v := by
  obtain ⟨x, rfl⟩ := exists_toNat_eq hv
  exact sext_toNat x ▸ x.le_toInt

theorem sext_lt {n v : Nat} (hv : v < 2 ^ n) : sext n v < 2 ^ (n - 1) := by
  obtain ⟨x, rfl⟩ := exists_toNat_eq hv
  exact sext_toNat x ▸ x.toInt_lt

/-- Extending takes `2^n` off exactly when the operand's top bit is set. -/
theorem sext_eq_sub_testBit {n v : Nat} (hv : v < 2 ^ n) :
    sext n v = (v : Int) - 2 ^ n * (v.testBit (n - 1)).toNat := by
  obtain ⟨x, rfl⟩ := exists_toNat_eq hv
  rw [sext_toNat, BitVec.toInt_eq_msb_cond, BitVec.testBit_toNat, ← BitVec.msb_eq_getLsbD_last]
  cases x.msb <;> simp

theorem sext_injective {n v w : Nat} (hv : v < 2 ^ n) (hw : w < 2 ^ n) (h : sext n v = sext n w) : v = w := by
  obtain ⟨x, rfl⟩ := exists_toNat_eq hv
  obtain ⟨y, rfl⟩ := exists_toNat_eq hw
  rw [sext_toNat, sext_toNat] at h
  rw [BitVec.eq_of_toInt_eq h]

theorem toNat_emod_two_pow (n : Nat) (i : Int) : (i % 2 ^ n).toNat = (BitVec.ofInt n i).toNat := by
  rw [BitVec.toNat_ofInt, Nat.cast_pow, Nat.cast_ofNat]

theorem toNat_emod_two_pow_lt (n : Nat) (i : Int) : (i % 2 ^ n).toNat < 2 ^ n :=
  toNat_emod_two_pow n i ▸ BitVec.isLt _

/-- Every integer of the signed range is the extension of its residue. -/
theorem sext_toNat_emod {n : Nat} (hn : 0 < n) {i : Int} (hlo : -(2 ^ (n - 1) : Int) ≤ i)
    (hhi : i < 2 ^ (n - 1)) : sext n (i % 2 ^ n).toNat = i := by
  rw [toNat_emod_two_pow, sext_toNat, BitVec.toInt_ofInt_eq_self hn hlo hhi]

theorem sext_emod_two_pow {n v : Nat} (hv : v < 2 ^ n) : sext n v % 2 ^ n = v := by
  rw [sext_eq_toInt_ofNat hv, BitVec.toInt_ofNat']
  exact_mod_cast (Int.bmod_emod ..).trans (Int.emod_eq_of_lt v.cast_nonneg (mod_cast hv))

/-- On a signed value `tc32` is the sign extension of its pattern. -/
theorem tc32_sext_toNat {n : Nat} (x : BitVec n) : tc32 (sext n x.toNat) = x.signExtend 32 := by
  rw [sext_toNat, tc32, BitVec.signExtend]

theorem toInt_tc32_sext {n v : Nat} (hn : n ≤ 32) (hv : v < 2 ^ n) : (tc32 (sext n v)).toInt = sext n v := by
  obtain ⟨x, rfl⟩ := exists_toNat_eq hv
  rw [tc32_sext_toNat, BitVec.toInt_signExtend_of_le hn, sext_toNat]

/-- All that the laws need of the four widths. -/
theorem sextWidth_bounds {n : Nat} (h : n ∈ [12, 16, 20, 24]) : 0 < n ∧ n ≤ 32 := by
  simp only [List.mem_cons, List.not_mem_nil, or_false] at h
  omega

/-- Settles O14: `sext` reads a pattern as a bit vector does, so its range and its sign bit are the bit
vector's. -/
theorem sextIsTwosComplement : Obligations.SextIsTwosComplement := fun _ _ _ hv =>
  ⟨rfl, le_sext hv, Int.le_sub_one_of_lt (sext_lt hv), sext_eq_sub_testBit hv, sext_eq_toInt_ofNat hv⟩

/-- Settles O15: a bit vector is determined by its signed value, and its number is the residue of it. -/
theorem sextArithmeticLaws : Obligations.SextArithmeticLaws := by
  intro N hN
  obtain ⟨hpos, hle⟩ := sextWidth_bounds hN
  exact ⟨fun v w => sext_injective,
    fun i hlo hhi => ⟨toNat_emod_two_pow_lt N i, sext_toNat_emod hpos hlo (Int.lt_of_le_sub_one hhi)⟩,
    fun v hv => ⟨sext_emod_two_pow hv, toInt_tc32_sext hle hv⟩⟩

/-! ### The commands -/

/-- The one answer of the four commands: the sign extension to 32 bits, 0 above, and nothing else moves. -/
theorem respond_doutInt_sext (s : State) {n : Nat} (x : BitVec n) :
    s.respond (doutInt (sext n x.toNat)) =
      { s with cw := none, responses := s.responses ++ [⟨.ok, (x.signExtend 32).setWidth 64⟩] } := by
  rw [doutInt, tc32_sext_toNat, State.respond]

end Sys2Proof.Machine

namespace Sys2Proof

/-! ### The words -/

/-- A check for zero upper bits, in numbers: the operand has to fit its width. -/
theorem narrow_eq_ite_lt {n k : Nat} (hnk : n + k = 24) (f : BitVec n → Instr) (imm : BitVec 24) :
    (if imm.extractLsb' n k ≠ 0#k then Except.error DecodeError.nonzeroImm
      else .ok (f (imm.extractLsb' 0 n)))
      = if imm.toNat < 2 ^ n then .ok (f (imm.setWidth n)) else .error .nonzeroImm := by
  have hn : n ≤ 24 := by omega
  simp only [ne_eq, ite_not, extractLsb'_high_eq_zero_iff hnk, BitVec.setWidth_eq_extractLsb' hn]

theorem decode_wordOf_sext (sel : BitVec 4) (imm : BitVec 24) :
    decode (wordOf 0x1#4 sel imm) = decodeSext sel imm := by
  simp [decode]

end Sys2Proof

namespace Sys2Proof.Machine

/-- Settles O16: the four commands share one answer, and a word's only check is that the operand fits its
width. -/
theorem sextCommandsRespond : Obligations.SextCommandsRespond := fun s =>
  ⟨fun v => congrArg Host.Outcome.next (respond_doutInt_sext s v),
    fun v => congrArg Host.Outcome.next (respond_doutInt_sext s v),
    fun v => congrArg Host.Outcome.next (respond_doutInt_sext s v),
    fun v => congrArg Host.Outcome.next (respond_doutInt_sext s v),
    fun imm =>
      ⟨(decode_wordOf_sext 0#4 imm).trans (narrow_eq_ite_lt rfl .sext12 imm),
        (decode_wordOf_sext 1#4 imm).trans (narrow_eq_ite_lt rfl .sext16 imm),
        (decode_wordOf_sext 2#4 imm).trans (narrow_eq_ite_lt rfl .sext20 imm),
        decode_wordOf_sext 3#4 imm⟩⟩

end Sys2Proof.Machine
end

section
/-! PROOFS. The calibration block (41_calibration R111, R115): the nine registers and the eighteen bytes as
numbers of each other. -/

namespace Sys2Proof.Machine

/-! ### The block's numbers -/

theorem byteAt_lt (b : List Byte) (i : Nat) : byteAt b i < 2 ^ 8 := BitVec.isLt _

theorem hiNibble_lt (b : List Byte) (i : Nat) : hiNibble b i < 2 ^ 4 :=
  Nat.div_lt_of_lt_mul (byteAt_lt b i)

theorem loNibble_lt (b : List Byte) (i : Nat) : loNibble b i < 2 ^ 4 := Nat.mod_lt _ (by decide)

theorem be16_lt (b : List Byte) (i : Nat) : be16 b i < 2 ^ 16 := by
  have := byteAt_lt b i
  have := byteAt_lt b (i + 1)
  unfold be16
  omega

/-- A register that is given a field's signed value holds the field's pattern. -/
theorem toNat_ofInt_sext {n v : Nat} (hv : v < 2 ^ n) : (BitVec.ofInt n (sext n v)).toNat = v := by
  obtain ⟨x, rfl⟩ := exists_toNat_eq hv
  rw [sext_toNat, BitVec.ofInt_toInt]

/-- Every field's number fits its width, so it is the number of its register. -/
theorem unpackCal_toNat (b : List Byte) :
    (unpackCal b).c0.toNat = byteAt b 0 * 16 + hiNibble b 1
    ∧ (unpackCal b).c1.toNat = loNibble b 1 * 256 + byteAt b 2
    ∧ (unpackCal b).c00.toNat = byteAt b 3 * 4096 + byteAt b 4 * 16 + hiNibble b 5
    ∧ (unpackCal b).c10.toNat = loNibble b 5 * 65536 + byteAt b 6 * 256 + byteAt b 7
    ∧ (unpackCal b).c01.toNat = be16 b 8
    ∧ (unpackCal b).c11.toNat = be16 b 10
    ∧ (unpackCal b).c20.toNat = be16 b 12
    ∧ (unpackCal b).c21.toNat = be16 b 14
    ∧ (unpackCal b).c30.toNat = be16 b 16 := by
  have hbyte := byteAt_lt b
  have hhi := hiNibble_lt b
  have hlo := loNibble_lt b
  refine ⟨toNat_ofInt_sext ?_, toNat_ofInt_sext ?_, toNat_ofInt_sext ?_, toNat_ofInt_sext ?_,
    toNat_ofInt_sext (be16_lt b 8), toNat_ofInt_sext (be16_lt b 10), toNat_ofInt_sext (be16_lt b 12),
    toNat_ofInt_sext (be16_lt b 14), toNat_ofInt_sext (be16_lt b 16)⟩
  · have := hbyte 0; have := hhi 1; omega
  · have := hlo 1; have := hbyte 2; omega
  · have := hbyte 3; have := hbyte 4; have := hhi 5; omega
  · have := hlo 5; have := hbyte 6; have := hbyte 7; omega

/-- Settles O20: a register's signed value is the sign extension of its number. -/
theorem unpackCalFollowsLayout : Obligations.UnpackCalFollowsLayout := by
  intro b _
  obtain ⟨h0, h1, h00, h10, h01, h11, h20, h21, h30⟩ := unpackCal_toNat b
  simp only [← sext_toNat, h0, h1, h00, h10, h01, h11, h20, h21, h30]
  exact ⟨rfl, rfl, rfl, rfl, rfl, rfl, rfl, rfl, rfl⟩

/-! ### Packing -/

/-- The byte that two coefficients share: the low half of one above the top half of the next. -/
theorem toNat_append_nibbles {m n : Nat} (x : BitVec m) (y : BitVec (n + 4)) :
    (x.extractLsb' 0 4 ++ y.extractLsb' n 4).toNat = x.toNat % 16 * 16 + y.toNat / 2 ^ n := by
  have hy : y.toNat / 2 ^ n < 2 ^ 4 := Nat.div_lt_of_lt_mul (Nat.pow_add 2 n 4 ▸ y.isLt)
  rw [BitVec.toNat_append, ← Nat.shiftLeft_add_eq_or_of_lt (BitVec.isLt _), Nat.shiftLeft_eq,
    BitVec.extractLsb'_toNat, BitVec.extractLsb'_toNat, Nat.shiftRight_eq_div_pow y.toNat,
    Nat.mod_eq_of_lt hy]
  rfl

/-- What stands above the lower part of a coefficient fits a byte, where the widths say so. -/
theorem toNat_div_lt_byte {w k : Nat} (x : BitVec w) (hw : 2 ^ w = k * 256) : x.toNat / k < 256 :=
  Nat.div_lt_of_lt_mul (hw ▸ x.isLt)

/-- The eighteen bytes of a packed block (41_calibration R116). -/
theorem packCal_toNat (c : Coefs) : (packCal c).map BitVec.toNat =
    [ c.c0.toNat / 16, c.c0.toNat % 16 * 16 + c.c1.toNat / 256, c.c1.toNat % 256,
      c.c00.toNat / 4096, c.c00.toNat / 16 % 256, c.c00.toNat % 16 * 16 + c.c10.toNat / 65536,
      c.c10.toNat / 256 % 256, c.c10.toNat % 256,
      c.c01.toNat / 256, c.c01.toNat % 256, c.c11.toNat / 256, c.c11.toNat % 256,
      c.c20.toNat / 256, c.c20.toNat % 256, c.c21.toNat / 256, c.c21.toNat % 256,
      c.c30.toNat / 256, c.c30.toNat % 256 ] := by
  simpa [packCal, bytes16, BitVec.extractLsb'_toNat, Nat.shiftRight_eq_div_pow] using
    ⟨toNat_div_lt_byte c.c0 rfl, toNat_append_nibbles (n := 8) c.c0 c.c1, toNat_div_lt_byte c.c00 rfl,
      toNat_append_nibbles (n := 16) c.c00 c.c10, toNat_div_lt_byte c.c01 rfl, toNat_div_lt_byte c.c11 rfl,
      toNat_div_lt_byte c.c20 rfl, toNat_div_lt_byte c.c21 rfl, toNat_div_lt_byte c.c30 rfl⟩

/-- A block is the list of its bytes' numbers. -/
theorem map_toNat_eq_byteAt (b : List Byte) : b.map BitVec.toNat = (List.range b.length).map (byteAt b) := by
  apply List.ext_getElem
  · simp
  · intro i hi _
    have hi : i < b.length := by simpa using hi
    simp [byteAt, hi]

theorem be16_div (b : List Byte) (i : Nat) : be16 b i / 256 = byteAt b i := by
  have := byteAt_lt b (i + 1)
  unfold be16
  omega

theorem be16_mod (b : List Byte) (i : Nat) : be16 b i % 256 = byteAt b (i + 1) := by
  have := byteAt_lt b (i + 1)
  unfold be16
  omega

/-- Each byte is rebuilt from the quotients and remainders of the fields over it. -/
theorem packCal_unpackCal {b : List Byte} (h : b.length = 18) : packCal (unpackCal b) = b := by
  have hinj : Function.Injective (BitVec.toNat (w := 8)) := fun _ _ => BitVec.eq_of_toNat_eq
  obtain ⟨h0, h1, h00, h10, h01, h11, h20, h21, h30⟩ := unpackCal_toNat b
  have hB1 := byteAt_lt b 1
  have hB2 := byteAt_lt b 2
  have hB4 := byteAt_lt b 4
  have hB5 := byteAt_lt b 5
  have hB6 := byteAt_lt b 6
  have hB7 := byteAt_lt b 7
  apply hinj.list_map
  rw [packCal_toNat, map_toNat_eq_byteAt, h, h0, h1, h00, h10, h01, h11, h20, h21, h30]
  simp only [be16_div, be16_mod, hiNibble, loNibble, List.range_succ, List.range_zero, List.nil_append,
    List.cons_append, List.map_cons, List.map_nil, List.cons.injEq, and_true]
  omega

theorem Coefs.eq_of_toNat_eq {c d : Coefs} (h0 : c.c0.toNat = d.c0.toNat) (h1 : c.c1.toNat = d.c1.toNat)
    (h00 : c.c00.toNat = d.c00.toNat) (h10 : c.c10.toNat = d.c10.toNat) (h01 : c.c01.toNat = d.c01.toNat)
    (h11 : c.c11.toNat = d.c11.toNat) (h20 : c.c20.toNat = d.c20.toNat) (h21 : c.c21.toNat = d.c21.toNat)
    (h30 : c.c30.toNat = d.c30.toNat) : c = d := by
  cases c
  cases d
  simp_all [BitVec.toNat_inj]

theorem byteAt_eq_of_map {b : List Byte} {ns : List Nat} (h : b.map BitVec.toNat = ns) (i : Nat) :
    byteAt b i = ns.getD i 0 := by
  rw [← h, byteAt]
  exact (List.getD_map (f := BitVec.toNat) ..).symm

/-- Each coefficient's number is rebuilt from the bytes it was cut into. -/
theorem unpackCal_packCal (c : Coefs) : unpackCal (packCal c) = c := by
  obtain ⟨h0, h1, h00, h10, h01, h11, h20, h21, h30⟩ := unpackCal_toNat (packCal c)
  have hbyte := byteAt_eq_of_map (packCal_toNat c)
  simp only [be16, hiNibble, loNibble, hbyte, List.getD_cons_succ, List.getD_cons_zero]
    at h0 h1 h00 h10 h01 h11 h20 h21 h30
  apply Coefs.eq_of_toNat_eq <;> omega

/-- Settles O21: unpacking after packing keeps each coefficient's number, packing after unpacking each
byte's. -/
theorem unpackPackInverse : Obligations.UnpackPackInverse :=
  ⟨fun _ => packCal_unpackCal, fun c => ⟨rfl, unpackCal_packCal c⟩⟩

end Sys2Proof.Machine
end

section
/-! PROOFS. `LDCAL` step by step, then along a scripted run (41_calibration R112, R113); `RDCOEF` (R114). -/

namespace Sys2Proof.Machine

/-! ### One step of `LDCAL`, by its phase and the answer of the bus -/

theorem exec_ldcal (s : State) : exec .ldcal s = .next (ldcalStep s) := rfl

theorem ldcalStep_of_poll {s : State} (h : s.phase = .poll) : ldcalStep s = pollCoefReady s := by
  simp [ldcalStep, h]

theorem ldcalStep_of_sleep {s : State} (h : s.phase = .sleep) :
    ldcalStep s = (s.sleep 20).stillExecuting .poll := by
  simp [ldcalStep, h]

theorem ldcalStep_of_block {s : State} (h : s.phase = .block) : ldcalStep s = loadBlock s := by
  simp [ldcalStep, h]

theorem pollCoefReady_of_failed {s : State} (h : s.readData measStatus 1 = none) :
    pollCoefReady s = (s.afterRead measStatus 1).leaveLdcal.raise .busError := by
  simp [pollCoefReady, h]

theorem pollCoefReady_of_answered {s : State} {p : List Byte} (h : s.readData measStatus 1 = some p) :
    pollCoefReady s
      = (s.afterRead measStatus 1).stillExecuting (if statusBit p 7 then .block else .sleep) := by
  simp [pollCoefReady, h]

theorem loadBlock_of_failed {s : State} (h : s.readData calBlock 18 = none) :
    loadBlock s = (s.afterRead calBlock 18).leaveLdcal.raise .busError := by
  simp [loadBlock, h]

theorem loadBlock_of_answered {s : State} {b : List Byte} (h : s.readData calBlock 18 = some b) :
    loadBlock s = State.respond { (s.afterRead calBlock 18).leaveLdcal with
      eng := s.eng.setCoefs (unpackCal b) } 0#64 := by
  simp [loadBlock, h]

/-- Settles O23: a failed read goes through the one error entry of the machine. -/
theorem ldcalBusErrorKeepsCoefficients : Obligations.LdcalBusErrorKeepsCoefficients := by
  refine ⟨fun s hp hfail => ?_, fun s hp hfail => ?_⟩
  · rw [exec_ldcal, ldcalStep_of_poll hp, pollCoefReady_of_failed hfail, State.leaveLdcal, ← hp]
    rfl
  · rw [exec_ldcal, ldcalStep_of_block hp, loadBlock_of_failed hfail]
    rfl

/-- Settles O24: the answered poll and the sleep leave `LDCAL` executing, each naming what is next. -/
theorem ldcalPollsAgainUntilReady : Obligations.LdcalPollsAgainUntilReady := by
  refine ⟨fun s p hp hread => ?_, fun s hp => ?_⟩
  · rw [exec_ldcal, ldcalStep_of_poll hp, pollCoefReady_of_answered hread]
    rfl
  · rw [exec_ldcal, ldcalStep_of_sleep hp]
    rfl

/-! ### Steps of the machine while `LDCAL` is at the port -/

theorem run_succ_of_step {M : Host.Core} {s t : M.State} (h : M.step s = .next t) (n : Nat) :
    M.run (n + 1) s = M.run n t := by
  rw [Host.Core.run, h]

/-- With `RST` quiet and `LDCAL` at the port, `n + 1` steps are one step of `LDCAL` and `n` more. -/
theorem run_succ_of_ldcal {s : State} (hr : s.rst = []) (hcw : s.cw = some (encode .ldcal)) (n : Nat) :
    Host.Core.run core (n + 1) s = Host.Core.run core n (ldcalStep s) := by
  have hquiet : s.rstAsserted = false := by rw [State.rstAsserted, hr, List.headD_nil]
  have htick : s.tickRst = s := by rw [State.tickRst, hr, List.tail_nil, ← hr]
  have hstep : step s = .next (ldcalStep s) := by
    rw [step_of_decode hquiet hcw decode_encode_ldcal, htick, exec_ldcal]
  exact run_succ_of_step (M := core) hstep n

/-- `LDCAL` come to this phase. -/
def State.inPhase (s : State) (p : LdcalPhase) : State := { s with phase := p }

/-- An answered poll only moves the phase: the port keeps the command. -/
theorem ldcalStep_of_poll_answered {s : State} {p : List Byte} (hcw : s.cw = some (encode .ldcal))
    (hp : s.phase = .poll) (h : s.readData measStatus 1 = some p) :
    ldcalStep s = (s.afterRead measStatus 1).inPhase (if statusBit p 7 then .block else .sleep) := by
  rw [ldcalStep_of_poll hp, pollCoefReady_of_answered h, State.stillExecuting, ← hcw]
  rfl

/-- A poll that shows coef-ready and a block read that succeeds end `LDCAL` in two steps. -/
theorem run_ldcal_of_ready {s : State} {p b : List Byte} (hr : s.rst = [])
    (hcw : s.cw = some (encode .ldcal)) (hp : s.phase = .poll) (hpoll : s.readData measStatus 1 = some p)
    (hready : statusBit p 7 = true) (hblock : (s.afterRead measStatus 1).readData calBlock 18 = some b) :
    Host.Core.run core 2 s = .next (State.respond { (s.afterRead measStatus 1).afterRead calBlock 18 with
      eng := s.eng.setCoefs (unpackCal b) } 0#64) := by
  have hstep : ldcalStep s = (s.afterRead measStatus 1).inPhase .block := by
    rw [ldcalStep_of_poll_answered hcw hp hpoll, if_pos hready]
  have hread : ((s.afterRead measStatus 1).inPhase .block).readData calBlock 18 = some b := hblock
  rw [run_succ_of_ldcal hr hcw, hstep,
    run_succ_of_ldcal (s := (s.afterRead measStatus 1).inPhase .block) hr hcw, ldcalStep_of_block rfl,
    loadBlock_of_answered hread, State.leaveLdcal, ← hp]
  rfl

/-- Settles O22: the block step writes all nine at once, and after a ready poll it is the second of two. -/
theorem ldcalLoadsAllCoefficients : Obligations.LdcalLoadsAllCoefficients := by
  refine ⟨fun s b hp hread => ?_, fun s p b hr hcw hp hpoll hready hblock => ?_⟩
  · rw [exec_ldcal, ldcalStep_of_block hp, loadBlock_of_answered hread]
    rfl
  · exact run_ldcal_of_ready hr hcw hp hpoll hready hblock

/-! ### Scripted polls -/

/-- A scripted frame of the right length is the answer (20_memory R57). -/
theorem State.answer_of_frame {s : State} {out f : List Byte} {rest : List Answer}
    (hs : s.script = .frame f :: rest) (hlen : f.length = out.length) : s.answer out = some f := by
  have hbytes : (List.range out.length).map (s.incomingByte out) = f := by
    apply List.ext_getElem
    · simp [hlen]
    · intro i _ hi
      simp [State.incomingByte, hs, hi]
  simp [State.answer, State.transferFails, hs, hbytes]

/-- The state after a transfer that the script answered with this frame. -/
def State.afterFrame (s : State) (out f : List Byte) (rest : List Answer) : State :=
  { s with script := rest, history := s.history ++ [.transfer out (some f)] }

/-- A scripted read returns the frame but its first byte, and uses the frame up. -/
theorem State.read_of_frame {s : State} {a : BitVec 7} {n : Nat} {x : Byte} {f : List Byte}
    {rest : List Answer} (hs : s.script = .frame (x :: f) :: rest) (hlen : f.length = n) :
    s.readData a n = some f ∧ s.afterRead a n = s.afterFrame (readFrame a n) (x :: f) rest := by
  have hanswer : s.answer (readFrame a n) = some (x :: f) := State.answer_of_frame hs (by simp [hlen])
  constructor
  · rw [State.readData, hanswer, Option.map_some, List.tail_cons]
  · rw [State.afterRead, State.afterTransfer, hanswer, hs, List.tail_cons, State.afterFrame]

/-- A scripted poll that is not ready costs two steps: its transaction, then the sleep. -/
theorem run_ldcal_of_not_ready {s : State} {x y : Byte} {rest : List Answer} (hr : s.rst = [])
    (hcw : s.cw = some (encode .ldcal)) (hp : s.phase = .poll) (hs : s.script = .frame [x, y] :: rest)
    (hy : y.getLsbD 7 = false) (n : Nat) :
    Host.Core.run core (n + 2) s
      = Host.Core.run core n ((s.afterFrame (readFrame measStatus 1) [x, y] rest).sleep 20) := by
  obtain ⟨hread, hafter⟩ := State.read_of_frame (a := measStatus) (n := 1) hs rfl
  have hnot : ¬ statusBit [y] 7 = true := ne_true_of_eq_false hy
  have hstep : ldcalStep s = (s.afterRead measStatus 1).inPhase .sleep := by
    rw [ldcalStep_of_poll_answered hcw hp hread, if_neg hnot]
  rw [run_succ_of_ldcal hr hcw, hstep,
    run_succ_of_ldcal (s := (s.afterRead measStatus 1).inPhase .sleep) hr hcw, ldcalStep_of_sleep rfl,
    State.stillExecuting, ← hcw, ← hp, ← hafter]
  rfl

/-- Settles O25, by induction on the polls that are not ready. -/
theorem ldcalCompletesAfterPolls : Obligations.LdcalCompletesAfterPolls := by
  intro s polls y r z blk rest hr hcw hp hpolls hready hlen hs
  induction polls generalizing s with
  | nil =>
    obtain ⟨hpoll, hafterPoll⟩ := State.read_of_frame (a := measStatus) (n := 1) hs rfl
    obtain ⟨hblock, hafterBlock⟩ := State.read_of_frame (a := calBlock) (n := 18)
      (s := s.afterFrame (readFrame measStatus 1) [y, r] (.frame (z :: blk) :: rest)) rfl hlen
    have hrun := run_ldcal_of_ready hr hcw hp hpoll hready (hafterPoll ▸ hblock)
    rw [hafterPoll, hafterBlock] at hrun
    refine hrun.trans ?_
    simp [State.respond, State.afterFrame, Engine.setCoefs, readFrame, measStatus, calBlock]
  | cons p polls ih =>
    have hround := run_ldcal_of_not_ready hr hcw hp hs (hpolls p List.mem_cons_self) (2 * polls.length + 2)
    have hrest := ih (State.sleep (s.afterFrame (readFrame measStatus 1) [p.1, p.2] _) 20) hr hcw hp
      (fun q hq => hpolls q (List.mem_cons_of_mem p hq)) rfl
    refine (hround.trans hrest).trans ?_
    simp [State.afterFrame, State.sleep, readFrame, measStatus]

/-! ### `RDCOEF` -/

/-- The nine coefficients' signed values, in the order of their numbers. -/
def Coefs.values (c : Coefs) : List Int :=
  [c.c0.toInt, c.c1.toInt, c.c00.toInt, c.c10.toInt, c.c01.toInt, c.c11.toInt, c.c20.toInt, c.c21.toInt,
   c.c30.toInt]

theorem Coefs.read_eq_values_getElem? (c : Coefs) (k : BitVec 4) : c.read k = c.values[k.toNat]? := by
  unfold Coefs.read
  split
  case h_10 =>
    have hk : 9 ≤ k.toNat := by grind
    exact (List.getElem?_eq_none hk).symm
  all_goals
    rename_i hk
    rw [hk]
    rfl

theorem exec_rdcoef_of_some {s : State} {k : BitVec 4} {v : Int} (h : s.eng.coefs.values[k.toNat]? = some v) :
    exec (.rdcoef k) s = .next (if s.eng.calv then s.respond (doutInt v) else s.raise .calNotValid) := by
  simp [exec, execRdcoef, Coefs.read_eq_values_getElem?, h]

theorem exec_rdcoef_of_none {s : State} {k : BitVec 4} (h : s.eng.coefs.values[k.toNat]? = none) :
    exec (.rdcoef k) s = .next (s.raise .illegalCommand) := by
  simp [exec, execRdcoef, Coefs.read_eq_values_getElem?, h]

/-- Settles O27: the index finds one of nine values, and `CALV` decides, or it finds none. -/
theorem rdcoefAnswersCoefficient : Obligations.RdcoefAnswersCoefficient := by
  refine ⟨fun s k x hvalid hx => ?_, fun s k hinvalid hk => ?_, fun s k hk => ?_⟩
  · have hk : k < 9 := (List.getElem?_eq_some_iff.1 hx).1
    have hx : s.eng.coefs.values[(BitVec.ofNat 4 k).toNat]? = some x := by
      rwa [BitVec.toNat_ofNat, Nat.mod_eq_of_lt (by omega)]
    rw [exec_rdcoef_of_some hx, if_pos hvalid]
    rfl
  · have hk : k.toNat < s.eng.coefs.values.length := Nat.lt_succ_of_le hk
    rw [exec_rdcoef_of_some (List.getElem?_eq_getElem hk), if_neg (ne_true_of_eq_false hinvalid)]
    rfl
  · rw [exec_rdcoef_of_none (List.getElem?_eq_none hk)]
    rfl

end Sys2Proof.Machine
end

section
/-! PROOFS. The raw samples and the levels (42_raw_and_config R125 to R130): what each of the five commands
leaves behind. -/

namespace Sys2Proof.Machine

/-! ### The sample's pattern -/

/-- A raw register that is given the signed value of a pattern holds the pattern. -/
theorem ofInt_sext_toNat {n : Nat} (x : BitVec n) : BitVec.ofInt n (sext n x.toNat) = x := by
  rw [sext_toNat, BitVec.ofInt_toInt]

theorem toNat_append_eq_add {m n : Nat} (x : BitVec m) (y : BitVec n) :
    (x ++ y).toNat = x.toNat * 2 ^ n + y.toNat := by
  rw [BitVec.toNat_append, ← Nat.shiftLeft_add_eq_or_of_lt y.isLt, Nat.shiftLeft_eq]

theorem toNat_append_bytes (b0 b1 b2 : Byte) :
    (b0 ++ b1 ++ b2 : BitVec 24).toNat = b0.toNat * 65536 + b1.toNat * 256 + b2.toNat := by
  rw [toNat_append_eq_add, toNat_append_eq_add]
  omega

/-- What a raw load writes is the three bytes in a row, most significant first (R125). -/
theorem ofInt_assemble24 (b0 b1 b2 : Byte) : BitVec.ofInt 24 (assemble24 [b0, b1, b2]) = b0 ++ b1 ++ b2 := by
  have hsext : assemble24 [b0, b1, b2] = sext 24 (b0 ++ b1 ++ b2 : BitVec 24).toNat := by
    rw [toNat_append_bytes]
    rfl
  rw [hsext, ofInt_sext_toNat]

/-! ### The commands -/

theorem exec_setraw (ch : Channel) (v : BitVec 24) (s : State) :
    exec (.setraw ch v) s = .next (State.respond { s with eng := s.eng.setRaw ch v } 0#64) := by
  rw [exec, execSetraw, ofInt_sext_toNat]

/-- A valid sample is answered sign-extended to 32 bits, 0 above (R130). -/
theorem exec_rdraw_of_valid {ch : Channel} {s : State} {v : BitVec 24} (hvalid : (s.eng.raw ch).valid = true)
    (hval : (s.eng.raw ch).val = v) :
    exec (.rdraw ch) s = .next (s.respond ((v.signExtend 32).setWidth 64)) := by
  rw [exec, execRdraw, if_pos hvalid, hval, ← sext_toNat, doutInt, tc32_sext_toNat]

theorem exec_rdraw_of_not_valid {ch : Channel} {s : State} (h : (s.eng.raw ch).valid = false) :
    exec (.rdraw ch) s = .next (s.raise .operandUnwritten) := by
  rw [exec, execRdraw, if_neg (ne_true_of_eq_false h)]

theorem loadRaw_of_failed {ch : Channel} {s : State} (h : s.readData (dataAddr ch) 3 = none) :
    loadRaw ch s = (s.afterRead (dataAddr ch) 3).raise .busError := by
  simp [loadRaw, h]

theorem loadRaw_of_answered {ch : Channel} {s : State} {b0 b1 b2 : Byte}
    (h : s.readData (dataAddr ch) 3 = some [b0, b1, b2]) :
    loadRaw ch s = State.respond { s.afterRead (dataAddr ch) 3 with
      eng := s.eng.setRaw ch (b0 ++ b1 ++ b2) } 0#64 := by
  simp only [loadRaw, h, ofInt_assemble24]
  rfl

/-! ### The obligations -/

/-- Settles O30: the register takes the pattern back from its signed value, and `RDRAW` then finds the valid
bit set. -/
theorem setrawStoresSignedSample : Obligations.SetrawStoresSignedSample := by
  refine fun s v =>
    ⟨(sext_toNat v).symm, exec_setraw .pressure v s, exec_setraw .temperature v s, fun ch => ?_⟩
  have hraw : (s.eng.setRaw ch v).raw ch = ⟨true, v⟩ := (Engine.raw_setRaw ..).trans (if_pos rfl)
  have hvalid := congrArg Reg.valid hraw
  have hval := congrArg Reg.val hraw
  exact ⟨_, _, exec_setraw ch v s, exec_rdraw_of_valid hvalid hval, rfl, List.append_assoc ..⟩

/-- Settles O31: one read, and then the bytes' pattern in the register, or the machine's one error entry. -/
theorem ldrawLoadsBigEndianSample : Obligations.LdrawLoadsBigEndianSample :=
  ⟨fun _ b0 b1 b2 h => ⟨by rw [← toNat_append_bytes, sext_toNat],
      congrArg Host.Outcome.next (loadRaw_of_answered (ch := .pressure) h)⟩,
    fun _ _ _ _ h => congrArg Host.Outcome.next (loadRaw_of_answered (ch := .temperature) h),
    fun _ h => congrArg Host.Outcome.next (loadRaw_of_failed (ch := .pressure) h),
    fun _ h => congrArg Host.Outcome.next (loadRaw_of_failed (ch := .temperature) h)⟩

/-- Settles O29: `SETOS` is one engine update and a response, in both channels. -/
theorem setosWritesLevel : Obligations.SetosWritesLevel := fun _ _ => ⟨rfl, rfl⟩

/-- Settles O32: the valid bit decides between the answer and the machine's one error entry. -/
theorem rdrawAnswersSample : Obligations.RdrawAnswersSample := fun _ ch =>
  ⟨fun h => exec_rdraw_of_valid (ch := ch) h rfl, fun h => exec_rdraw_of_not_valid (ch := ch) h⟩

end Sys2Proof.Machine
end

section
/-! PROOFS. Exact operations: a result that is itself a finite datum is what the rounded operation gives
(00_scope R11), and the dyadic rationals of the format's precision are such data. -/

namespace Sys2Proof

/-- `q` is the value of a finite datum of the format. -/
def Representable (fmt : Fmt) (q : Rat) : Prop :=
  ∃ neg, ∃ mag < fmt.infMag, q = signedRat neg (magRat fmt mag)

/-- A significand within the precision has a magnitude at every exponent: a short one is doubled until it
is normal or the exponent is the least. -/
theorem exists_unitsOf_eq (fmt : Fmt) {m : Nat} (k : Nat) (hm : m ≤ 2 * 2 ^ (fmt.prec - 1)) :
    ∃ mag, unitsOf fmt mag = m * 2 ^ k := by
  induction k generalizing m with
  | zero => exact ⟨_, unitsOf_significand fmt 0 m hm (.inl rfl)⟩
  | succ k ih =>
    rcases Nat.lt_or_ge m (2 ^ (fmt.prec - 1)) with hshort | hnormal
    · obtain ⟨mag, hmag⟩ := ih (m := 2 * m) (by omega)
      exact ⟨mag, by rw [hmag]; ring⟩
    · exact ⟨_, unitsOf_significand fmt (k + 1) m hm (.inr hnormal)⟩

theorem two_mul_two_pow_prec_sub_one (fmt : Fmt) : 2 * 2 ^ (fmt.prec - 1) = 2 ^ fmt.prec := by
  cases fmt <;> rfl

theorem intCast_eq_signedRat (m : Int) : (m : Rat) = signedRat (decide (m < 0)) m.natAbs := by
  rw [Nat.cast_natAbs]
  rcases lt_or_ge m 0 with hm | hm
  · simp [hm, abs_of_neg hm]
  · simp [hm.not_gt, abs_of_nonneg hm]

/-- A whole number within the precision, over a power of two that the format reaches. -/
theorem representable_div_two_pow {fmt : Fmt} {m : Int} {e : Nat} (hm : m.natAbs ≤ 2 ^ fmt.prec)
    (he : e ≤ fmt.quantum) : Representable fmt (m / 2 ^ e) := by
  obtain ⟨mag, hmag⟩ := exists_unitsOf_eq fmt (fmt.quantum - e) (two_mul_two_pow_prec_sub_one fmt ▸ hm)
  refine ⟨decide (m < 0), mag, ?_, ?_⟩
  · obtain ⟨b, hb, hpow⟩ := exists_unitsOf_eq_pow fmt (n := fmt.prec) (by cases fmt <;> decide)
    refine lt_of_le_of_lt ((unitsOf_strictMono fmt).le_iff_le.1 ?_) hb
    rw [hmag, hpow, pow_add]
    exact Nat.mul_le_mul hm (Nat.pow_le_pow_right two_pos (Nat.sub_le _ _))
  · have hquot : magRat fmt mag = m.natAbs / 2 ^ e := by
      have hpow : (2 : Rat) ^ fmt.quantum = 2 ^ (fmt.quantum - e) * 2 ^ e := by
        rw [← pow_add, Nat.sub_add_cancel he]
      rw [magRat, hmag]
      push_cast
      rw [hpow]
      field_simp
    have hsign := signedRat_div (decide (m < 0)) false m.natAbs (2 ^ e)
    rw [hquot, intCast_eq_signedRat m]
    simpa using hsign

theorem representable_intCast {fmt : Fmt} {m : Int} (hm : m.natAbs ≤ 2 ^ fmt.prec) :
    Representable fmt m := by
  simpa using representable_div_two_pow hm (Nat.zero_le _)

theorem representable_zero (fmt : Fmt) : Representable fmt 0 := ⟨false, 0, infMag_pos fmt, by simp⟩

end Sys2Proof

namespace Sys2Proof.Machine

theorem abs_lt_overflowBound {fmt : Fmt} {q : Rat} (hq : Representable fmt q) :
    |q| < overflowBound fmt := by
  obtain ⟨neg, mag, hmag, rfl⟩ := hq
  have hmono := unitsOf_strictMono fmt
  have hle : (unitsOf fmt mag : Rat) ≤ unitsOf fmt (fmt.infMag - 1) := by
    exact_mod_cast hmono.monotone (Nat.le_sub_one_of_lt hmag)
  have hlt : (unitsOf fmt mag : Rat) < unitsOf fmt fmt.infMag := by exact_mod_cast hmono hmag
  rw [abs_signedRat, abs_of_nonneg (magRat_nonneg fmt mag), overflowBound_eq, magRat]
  gcongr
  linarith

/-- The datum nearest to the value of a datum has that value. -/
theorem NearestEven.toRat?_eq {fmt : Fmt} {q : Rat} {r : FloatVal} (h : NearestEven fmt q r)
    (hq : Representable fmt q) : r.toRat? fmt = some q := by
  cases r with
  | nan => exact h.elim
  | inf neg => exact absurd h.1 (abs_lt_overflowBound hq).not_ge
  | fin neg mag =>
    obtain ⟨-, -, v, hv, hnear⟩ := h
    obtain ⟨neg', mag', hmag', rfl⟩ := hq
    have hdist := (hnear (.fin neg' mag') _ (decide_eq_true hmag') (FloatVal.toRat?_fin ..)).1
    rw [sub_self, abs_zero, abs_nonpos_iff, sub_eq_zero] at hdist
    rw [hv, hdist]

/-! ### The operations on exact operands -/

section Exact

variable {fmt : Fmt}

theorem toRat?_ofInt {i : Int} (hi : i.natAbs ≤ 2 ^ fmt.prec) : (ofInt fmt i).toRat? fmt = some (i : Rat) :=
  (ofInt_nearestEven fmt i).toRat?_eq (representable_intCast hi)

variable {x y : FloatVal} {a b : Rat} (hx : x.toRat? fmt = some a) (hy : y.toRat? fmt = some b)
include hx hy

theorem toRat?_fadd (h : Representable fmt (a + b)) : (fadd fmt x y).toRat? fmt = some (a + b) := by
  obtain ⟨na, ma, rfl, rfl⟩ := FloatVal.exists_fin_of_toRat? hx
  obtain ⟨nb, mb, rfl, rfl⟩ := FloatVal.exists_fin_of_toRat? hy
  exact (fadd_fin_nearestEven ..).toRat?_eq h

theorem toRat?_fmul (h : Representable fmt (a * b)) : (fmul fmt x y).toRat? fmt = some (a * b) := by
  obtain ⟨na, ma, rfl, rfl⟩ := FloatVal.exists_fin_of_toRat? hx
  obtain ⟨nb, mb, rfl, rfl⟩ := FloatVal.exists_fin_of_toRat? hy
  exact (fmul_fin_nearestEven ..).toRat?_eq h

theorem toRat?_fdiv (hb : b ≠ 0) (h : Representable fmt (a / b)) :
    (fdiv fmt x y).toRat? fmt = some (a / b) := by
  obtain ⟨na, ma, rfl, rfl⟩ := FloatVal.exists_fin_of_toRat? hx
  obtain ⟨nb, mb, rfl, rfl⟩ := FloatVal.exists_fin_of_toRat? hy
  exact (fdiv_fin_nearestEven fmt na nb ma mb hb).toRat?_eq h

end Exact

/-- A zero of either sign plus +0 is +0. -/
theorem fadd_zero_posZero {fmt : Fmt} {x : FloatVal} (hx : x.toRat? fmt = some 0) :
    fadd fmt x (.fin false 0) = .fin false 0 := by
  obtain ⟨neg, mag, rfl, h0⟩ := FloatVal.exists_fin_of_toRat? hx
  have hmag : magRat fmt mag = 0 := by cases neg <;> simpa using h0.symm
  have hunits : unitsOf fmt mag = 0 := by simpa [magRat] using hmag
  cases neg <;> simp [fadd, addFinite, hunits, roundTo, roundHalfEven, infMag_pos]

end Sys2Proof.Machine
end

section
/-! PROOFS. The compensation commands and their formulas (43_compensation R140 to R146). -/

namespace Sys2Proof.Machine

/-! ### The commands (R140, R141, R143) -/

theorem channelReady_eq_true {e : Engine} {ch : Channel} (hraw : (e.raw ch).valid = true)
    (hos : (e.os ch).valid = true) : channelReady e ch = true := by
  rw [channelReady, hraw, hos, Bool.and_self]

theorem channelReady_eq_false {e : Engine} {ch : Channel}
    (h : (e.raw ch).valid = false ∨ (e.os ch).valid = false) : channelReady e ch = false :=
  Bool.and_eq_false_iff.2 h

section Commands

variable {s : State}

theorem exec_compt_of_not_calv (h : s.eng.calv = false) : exec .compt s = .next (s.raise .calNotValid) := by
  rw [exec, execCompt, h]
  rfl

theorem exec_compp_of_not_calv (h : s.eng.calv = false) : exec .compp s = .next (s.raise .calNotValid) := by
  rw [exec, execCompp, h]
  rfl

variable (hcalv : s.eng.calv = true)
include hcalv

theorem exec_compt_of_not_ready (h : channelReady s.eng .temperature = false) :
    exec .compt s = .next (s.raise .operandUnwritten) := by
  rw [exec, execCompt, hcalv, h]
  rfl

theorem exec_compt_of_ready (h : channelReady s.eng .temperature = true) :
    exec .compt s = .next (State.respond { s with eng := s.eng.setFreg .t (FloatVal.toBits s.params.fmt
      (compTemp s.params.fmt s.eng.rawT.val.toInt (s.scaleOf .temperature)
        s.eng.coefs.c0.toInt s.eng.coefs.c1.toInt)) } 0#64) := by
  rw [exec, execCompt, hcalv, h]
  rfl

theorem exec_compp_of_not_ready
    (h : channelReady s.eng .pressure = false ∨ channelReady s.eng .temperature = false) :
    exec .compp s = .next (s.raise .operandUnwritten) := by
  rw [exec, execCompp, hcalv, Bool.and_eq_false_iff.2 h]
  rfl

theorem exec_compp_of_ready (hP : channelReady s.eng .pressure = true)
    (hT : channelReady s.eng .temperature = true) :
    exec .compp s = .next (State.respond { s with eng := s.eng.setFreg .p (FloatVal.toBits s.params.fmt
      (compPres s.params.fmt s.eng.rawP.val.toInt s.eng.rawT.val.toInt
        (s.scaleOf .pressure) (s.scaleOf .temperature) s.eng.coefs)) } 0#64) := by
  rw [exec, execCompp, hcalv, hP, hT]
  rfl

end Commands

/-- Settles O34: the calibration is checked, then the channel, and what is written is the formula's value. -/
theorem comptWritesTemperature : Obligations.ComptWritesTemperature :=
  ⟨fun _ hcalv hraw hos => exec_compt_of_ready hcalv (channelReady_eq_true hraw hos),
    fun _ => exec_compt_of_not_calv,
    fun _ hcalv h => exec_compt_of_not_ready hcalv (channelReady_eq_false h)⟩

/-- Settles O35, as O34, with both channels checked. -/
theorem comppWritesPressure : Obligations.ComppWritesPressure := by
  refine ⟨fun s hcalv hrawP hrawT hosP hosT => ?_, fun s => exec_compp_of_not_calv, fun s hcalv h => ?_⟩
  · exact exec_compp_of_ready hcalv (channelReady_eq_true hrawP hosP) (channelReady_eq_true hrawT hosT)
  · refine exec_compp_of_not_ready hcalv ?_
    obtain hraw | hraw | hos | hos := h
    · exact .inl (channelReady_eq_false (.inl hraw))
    · exact .inr (channelReady_eq_false (.inl hraw))
    · exact .inl (channelReady_eq_false (.inr hos))
    · exact .inr (channelReady_eq_false (.inr hos))

/-! ### Finite values (R145) -/

/-- Settles O36, by the bounds of the steps of both formulas. -/
theorem compensationAlwaysFinite : Obligations.CompensationAlwaysFinite :=
  fun fmt rawP rawT _ _ c hKP0 hKP hKT0 hKT =>
    ⟨(compTemp_atMostPow fmt rawT hKT0 hKT c.c0 c.c1).finite,
      (compPres_atMostPow fmt rawP rawT hKP0 hKP hKT0 hKT c).finite⟩

/-! ### Exact values of the temperature (R141, R146) -/

section ExactTemperature

variable (fmt : Fmt)

theorem two_pow_24_le_prec : 2 ^ 24 ≤ 2 ^ fmt.prec := by cases fmt <;> decide

/-- Raw values and coefficients, of at most 24 bits, are data of both formats. -/
theorem natAbs_toInt_le_prec {w : Nat} (hw : w - 1 ≤ 24) (v : BitVec w) : v.toInt.natAbs ≤ 2 ^ fmt.prec :=
  calc v.toInt.natAbs ≤ 2 ^ (w - 1) := natAbs_toInt_le v
    _ ≤ 2 ^ 24 := Nat.pow_le_pow_right two_pos hw
    _ ≤ 2 ^ fmt.prec := two_pow_24_le_prec fmt

theorem toRat?_ofInt_toInt {w : Nat} (hw : w - 1 ≤ 24) (v : BitVec w) :
    (ofInt fmt v.toInt).toRat? fmt = some (v.toInt : Rat) := toRat?_ofInt (natAbs_toInt_le_prec fmt hw v)

theorem toRat?_ofInt_natCast {K : Nat} (hK : K < 2 ^ 24) : (ofInt fmt K).toRat? fmt = some (K : Rat) := by
  simpa using toRat?_ofInt (fmt := fmt) (i := K) (hK.le.trans (two_pow_24_le_prec fmt))

theorem representable_half (c0 : BitVec 12) : Representable fmt ((c0.toInt : Rat) / 2) := by
  simpa using representable_div_two_pow (e := 1) (natAbs_toInt_le_prec fmt (by decide) c0)
    (by cases fmt <;> decide)

/-- The term `c0 / 2` of the temperature is exact. -/
theorem toRat?_half (c0 : BitVec 12) :
    (fdiv fmt (ofInt fmt c0.toInt) (fconst fmt false 2 1)).toRat? fmt = some ((c0.toInt : Rat) / 2) :=
  have htwo : (fconst fmt false 2 1).toRat? fmt = some 2 := toRat?_ofInt_natCast fmt (K := 2) (by decide)
  toRat?_fdiv (toRat?_ofInt_toInt fmt (by decide) c0) htwo two_ne_zero (representable_half fmt c0)

theorem fdiv_zero_two : fdiv fmt (ofInt fmt 0) (fconst fmt false 2 1) = .fin false 0 := by
  cases fmt <;> decide +kernel

/-- The product of the temperature is a zero where a factor is 0: a raw value of 0 divides exactly, and
whatever the quotient is, it is finite. -/
theorem toRat?_product_of_corner (raw : BitVec 24) {K : Nat} (hpos : 0 < K) (hK : K < 2 ^ 24)
    (c1 : BitVec 12) (hcorner : raw = 0#24 ∨ c1 = 0#12) :
    (fmul fmt (fdiv fmt (ofInt fmt raw.toInt) (ofInt fmt K)) (ofInt fmt c1.toInt)).toRat? fmt = some 0 := by
  have hc1 := toRat?_ofInt_toInt fmt (by decide) c1
  have hzero : ∃ a, (fdiv fmt (ofInt fmt raw.toInt) (ofInt fmt K)).toRat? fmt = some a
      ∧ a * c1.toInt = 0 := by
    rcases hcorner with rfl | rfl
    · have hdiv := toRat?_fdiv (toRat?_ofInt_toInt fmt (by decide) 0#24) (toRat?_ofInt_natCast fmt hK)
        (by exact_mod_cast hpos.ne') (by simpa using representable_zero fmt)
      exact ⟨_, hdiv, by simp⟩
    · obtain ⟨neg, mag, hfin, -⟩ := scaled_atMostPow fmt raw hpos hK
      exact ⟨_, by rw [hfin, FloatVal.toRat?_fin], by simp⟩
  obtain ⟨a, ha, ha0⟩ := hzero
  exact ha0 ▸ toRat?_fmul ha hc1 (ha0 ▸ representable_zero fmt)

end ExactTemperature

/-- Settles O37: the product is a zero of either sign; adding it to `c0 / 2` is exact, and to +0 gives +0. -/
theorem comptCornersGiveHalfC0 : Obligations.ComptCornersGiveHalfC0 := by
  intro fmt raw K c0 c1 hpos hK hcorner
  have hproduct := toRat?_product_of_corner fmt raw hpos hK c1 hcorner
  have hsum := toRat?_fadd hproduct (toRat?_half fmt c0) (by simpa using representable_half fmt c0)
  rw [zero_add] at hsum
  refine ⟨hsum, ?_⟩
  rintro rfl
  exact (congrArg (fadd fmt _) (fdiv_zero_two fmt)).trans (fadd_zero_posZero hproduct)

/-- Settles O38: the quotient is `n / 2 ^ k`, the product `n * c1 / 2 ^ k` and the sum
`(2 * n * c1 + c0 * 2 ^ k) / 2 ^ (k + 1)`, each of them a datum. -/
theorem comptExactWhenQuotientRepresentable : Obligations.ComptExactWhenQuotientRepresentable := by
  intro fmt raw n q k c0 c1 hq hK hraw hproduct hsum t1 t2 t3
  have hk : k < 24 := (Nat.pow_lt_pow_iff_right one_lt_two).1 ((Nat.le_mul_of_pos_left _ hq).trans_lt hK)
  have hquantum : k + 1 ≤ fmt.quantum := hk.trans (by cases fmt <;> decide)
  have hn : n.natAbs ≤ 2 ^ fmt.prec :=
    calc n.natAbs ≤ n.natAbs * q := Nat.le_mul_of_pos_right _ hq
      _ = raw.toInt.natAbs := by rw [hraw, Int.natAbs_mul, Int.natAbs_natCast]
      _ ≤ 2 ^ fmt.prec := natAbs_toInt_le_prec fmt (by decide) raw
  have hq0 : (q : Rat) ≠ 0 := by exact_mod_cast hq.ne'
  have hquot : (raw.toInt : Rat) / (q * 2 ^ k : Nat) = n / 2 ^ k := by
    rw [hraw]
    push_cast
    field_simp
  have hmul : (n : Rat) / 2 ^ k * c1.toInt = (n * c1.toInt : Int) / 2 ^ k := by
    push_cast
    ring
  have hadd : (n : Rat) / 2 ^ k * c1.toInt + c0.toInt / 2
      = (2 * n * c1.toInt + c0.toInt * 2 ^ k : Int) / 2 ^ (k + 1) := by
    push_cast
    field_simp
    ring
  have h1 : t1.toRat? fmt = some ((n : Rat) / 2 ^ k) := hquot ▸ toRat?_fdiv
    (toRat?_ofInt_toInt fmt (by decide) raw) (toRat?_ofInt_natCast fmt hK)
    (by push_cast; positivity) (hquot ▸ representable_div_two_pow hn (by omega))
  have h2 := toRat?_fmul h1 (toRat?_ofInt_toInt fmt (by decide) c1)
    (hmul ▸ representable_div_two_pow hproduct (by omega))
  have h3 := toRat?_half fmt c0
  have h4 := toRat?_fadd h2 h3 (hadd ▸ representable_div_two_pow hsum hquantum)
  have hideal : idealTemp raw.toInt (q * 2 ^ k) c0.toInt c1.toInt
      = (n : Rat) / 2 ^ k * c1.toInt + c0.toInt / 2 := by
    rw [idealTemp, ← hquot, div_mul_eq_mul_div]
  rw [hideal, hquot]
  exact ⟨h1, h2, h3, rfl, h4⟩

end Sys2Proof.Machine
end

section
/-! PROOFS. The altitude commands, and the points at which their formulas are exact (44_altitude R156 to
R161). -/

namespace Sys2Proof

/-! ### Values determine data -/

theorem signedRat_eq_zero_iff {n : Bool} {a : Rat} : signedRat n a = 0 ↔ a = 0 := by cases n <;> simp

theorem magRat_injective (fmt : Fmt) : Function.Injective (magRat fmt) := by
  intro m n h
  have hQ : ((2 ^ fmt.quantum : Nat) : Rat) ≠ 0 := by positivity
  exact (unitsOf_strictMono fmt).injective (by exact_mod_cast (div_left_inj' hQ).1 h)

theorem magRat_eq_zero_iff {fmt : Fmt} {mag : Nat} : magRat fmt mag = 0 ↔ mag = 0 :=
  ⟨fun h => magRat_injective fmt (h.trans (magRat_zero fmt).symm), fun h => h ▸ magRat_zero fmt⟩

/-- The zeros of either sign are the data of value 0. -/
theorem FloatVal.isZero_iff_toRat? (fmt : Fmt) (x : FloatVal) :
    x.isZero = true ↔ x.toRat? fmt = some 0 := by
  cases x with
  | nan | inf neg => simp [isZero, toRat?]
  | fin neg mag => simp [isZero, toRat?_fin, signedRat_eq_zero_iff, magRat_eq_zero_iff]

theorem FloatVal.finite_iff_toRat? (fmt : Fmt) (x : FloatVal) :
    x.finite = true ↔ ∃ a, x.toRat? fmt = some a := by
  cases x with
  | nan | inf neg => simp [finite, toRat?]
  | fin neg mag => simp [finite, toRat?_fin]

theorem FloatVal.finite_of_isZero {x : FloatVal} (hx : x.isZero = true) : x.finite = true := by
  cases x with
  | nan | inf neg => cases hx
  | fin neg mag => rfl

/-- Two data of one value other than 0 are the same datum: only zero has two. -/
theorem FloatVal.eq_of_toRat?_eq {fmt : Fmt} {x y : FloatVal} {a : Rat} (hx : x.toRat? fmt = some a)
    (hy : y.toRat? fmt = some a) (ha : a ≠ 0) : x = y := by
  obtain ⟨nx, mx, rfl, rfl⟩ := exists_fin_of_toRat? hx
  obtain ⟨ny, my, rfl, heq⟩ := exists_fin_of_toRat? hy
  rcases eq_or_ne nx ny with rfl | hne
  · rw [← sub_eq_zero, signedRat_sub, signedRat_eq_zero_iff, sub_eq_zero] at heq
    rw [magRat_injective fmt heq]
  · have hsum := abs_signedRat_sub_of_ne hne (magRat_nonneg fmt mx) (magRat_nonneg fmt my)
    rw [heq, sub_self, abs_zero] at hsum
    have hmx : magRat fmt mx = 0 := by linarith [magRat_nonneg fmt mx, magRat_nonneg fmt my]
    exact absurd (signedRat_eq_zero_iff.2 hmx) ha

theorem FloatVal.representable_of_toRat? {fmt : Fmt} {x : FloatVal} {a : Rat} (hw : x.wf fmt = true)
    (hx : x.toRat? fmt = some a) : Representable fmt a := by
  obtain ⟨neg, mag, rfl, rfl⟩ := exists_fin_of_toRat? hx
  exact ⟨neg, mag, of_decide_eq_true hw, rfl⟩

theorem representable_one (fmt : Fmt) : Representable fmt 1 := by
  simpa using representable_intCast (fmt := fmt) (m := 1) Nat.one_le_two_pow

/-! ### Zeros among the operands -/

@[simp] theorem roundTo_zero (fmt : Fmt) (neg : Bool) (den : Nat) : roundTo fmt neg 0 den = .fin neg 0 := by
  simp [roundTo, roundHalfEven, infMag_pos]

/-- A difference of equal data is +0. -/
theorem fsub_self {fmt : Fmt} {x : FloatVal} (hx : x.finite = true) : fsub fmt x x = .fin false 0 := by
  cases x with
  | nan | inf neg => cases hx
  | fin neg mag => simp [fsub, FloatVal.neg, fadd, addFinite]

end Sys2Proof

namespace Sys2Proof.Machine

theorem NearestEven.finite {fmt : Fmt} {q : Rat} {r : FloatVal} (h : NearestEven fmt q r)
    (hq : |q| < overflowBound fmt) : r.finite = true := by
  cases r with
  | nan => exact h.elim
  | inf neg => exact absurd h.1 hq.not_ge
  | fin neg mag => rfl

/-! ### Operations with one and zero -/

section Identities

variable {fmt : Fmt}

theorem toRat?_ofInt_one : (ofInt fmt 1).toRat? fmt = some 1 := by
  simpa using toRat?_ofInt (fmt := fmt) (i := 1) Nat.one_le_two_pow

theorem toRat?_fsub {x y : FloatVal} {a b : Rat} (hx : x.toRat? fmt = some a) (hy : y.toRat? fmt = some b)
    (h : Representable fmt (a - b)) : (fsub fmt x y).toRat? fmt = some (a - b) := by
  obtain ⟨na, ma, rfl, rfl⟩ := FloatVal.exists_fin_of_toRat? hx
  obtain ⟨nb, mb, rfl, rfl⟩ := FloatVal.exists_fin_of_toRat? hy
  exact (fsub_fin_nearestEven ..).toRat?_eq h

theorem ofInt_one_finite : (ofInt fmt 1).finite = true :=
  (FloatVal.finite_iff_toRat? fmt _).2 ⟨1, toRat?_ofInt_one⟩

theorem fdiv_self {x : FloatVal} {a : Rat} (hx : x.toRat? fmt = some a) (ha : a ≠ 0) :
    fdiv fmt x x = ofInt fmt 1 := by
  have hquot := toRat?_fdiv hx hx ha (by rw [div_self ha]; exact representable_one fmt)
  rw [div_self ha] at hquot
  exact FloatVal.eq_of_toRat?_eq hquot toRat?_ofInt_one one_ne_zero

theorem fsub_one_zero {x : FloatVal} (hx : x.isZero = true) : fsub fmt (ofInt fmt 1) x = ofInt fmt 1 := by
  have hdiff := toRat?_fsub toRat?_ofInt_one ((x.isZero_iff_toRat? fmt).1 hx)
    (by rw [sub_zero]; exact representable_one fmt)
  rw [sub_zero] at hdiff
  exact FloatVal.eq_of_toRat?_eq hdiff toRat?_ofInt_one one_ne_zero

/-- Multiplying by one gives the operand back, a zero with its sign. -/
theorem fmul_one {x : FloatVal} (hw : x.wf fmt = true) (hx : x.finite = true) :
    fmul fmt x (ofInt fmt 1) = x := by
  obtain ⟨a, ha⟩ := (x.finite_iff_toRat? fmt).1 hx
  rcases eq_or_ne a 0 with rfl | hne
  · obtain ⟨neg, mag, rfl, h0⟩ := FloatVal.exists_fin_of_toRat? ha
    obtain rfl : mag = 0 := magRat_eq_zero_iff.1 (signedRat_eq_zero_iff.1 h0.symm)
    obtain ⟨one, -, hone⟩ := ofInt_one fmt
    simp [hone, fmul]
  · have hprod := toRat?_fmul ha toRat?_ofInt_one
      (by rw [mul_one]; exact FloatVal.representable_of_toRat? hw ha)
    rw [mul_one] at hprod
    exact FloatVal.eq_of_toRat?_eq hprod ha hne

theorem fdiv_isZero {x y : FloatVal} {b : Rat} (hx : x.isZero = true) (hy : y.toRat? fmt = some b)
    (hb : b ≠ 0) : (fdiv fmt x y).isZero = true := by
  have hquot := toRat?_fdiv ((x.isZero_iff_toRat? fmt).1 hx) hy hb
    (by rw [zero_div]; exact representable_zero fmt)
  rw [zero_div] at hquot
  exact (FloatVal.isZero_iff_toRat? fmt _).2 hquot

end Identities

/-! ### The constants (00_scope R12) -/

section Constants

variable (fmt : Fmt)

theorem toRat?_const100 : (const100 fmt).toRat? fmt = some 100 :=
  toRat?_ofInt_natCast fmt (K := 100) (by decide)

theorem toRat?_const44330 : (const44330 fmt).toRat? fmt = some 44330 :=
  toRat?_ofInt_natCast fmt (K := 44330) (by decide)

/-- 44330 is a datum without a sign, so a product of it with +0 is +0. -/
theorem fmul_const44330_posZero : fmul fmt (const44330 fmt) (.fin false 0) = .fin false 0 := by
  have hsign : (const44330 fmt).sign = false := by cases fmt <;> decide +kernel
  obtain ⟨neg, mag, hfin, -⟩ := FloatVal.exists_fin_of_toRat? (toRat?_const44330 fmt)
  rw [hfin] at hsign ⊢
  obtain rfl : neg = false := hsign
  simp [fmul]

theorem constAltExp_finite : (constAltExp fmt).finite = true := by cases fmt <;> decide +kernel

theorem constSeaExp_finite : (constSeaExp fmt).finite = true := by cases fmt <;> decide +kernel

/-- Of a zero of either sign the power of `ALT` is +0, by P3: its exponent is positive and no whole number. -/
theorem fpow_constAltExp_of_isZero {x : FloatVal} (hx : x.isZero = true) :
    fpow fmt x (constAltExp fmt) = .fin false 0 := by
  have hexp : (constAltExp fmt).isZero = false ∧ (constAltExp fmt).ltZero = false
      ∧ (constAltExp fmt).isOddInteger fmt = false := by cases fmt <;> decide +kernel
  obtain ⟨hzero, hpos, hodd⟩ := hexp
  exact fpow_zero_of_pos hx (constAltExp_finite fmt) hzero hpos hodd

end Constants

/-! ### The formulas at their exact points (R157, R159) -/

section ExactPoints

variable {fmt : Fmt} {p s h : FloatVal} {a b : Rat}

theorem hectopascals_nearestEven (hp : p.toRat? fmt = some a) :
    NearestEven fmt (a / 100) (hectopascals fmt p) := by
  obtain ⟨na, ma, rfl, rfl⟩ := FloatVal.exists_fin_of_toRat? hp
  obtain ⟨nc, mc, hc, hval⟩ := FloatVal.exists_fin_of_toRat? (toRat?_const100 fmt)
  rw [hectopascals, hc, hval]
  exact fdiv_fin_nearestEven fmt na nc ma mc (hval ▸ by norm_num)

theorem hectopascals_wf (fmt : Fmt) (p : FloatVal) : (hectopascals fmt p).wf fmt = true := fdiv_wf ..

/-- A hundredth of a finite pressure cannot overflow. -/
theorem hectopascals_finite (hw : p.wf fmt = true) (hp : p.toRat? fmt = some a) :
    (hectopascals fmt p).finite = true := by
  refine (hectopascals_nearestEven hp).finite ?_
  calc |a / 100| = |a| / 100 := by rw [abs_div]; norm_num
    _ ≤ |a| := div_le_self (abs_nonneg a) (by norm_num)
    _ < overflowBound fmt := abs_lt_overflowBound (FloatVal.representable_of_toRat? hw hp)

theorem hectopascals_eq (hp : p.toRat? fmt = some (100 * b)) (hw : s.wf fmt = true)
    (hs : s.toRat? fmt = some b) (hb : b ≠ 0) : hectopascals fmt p = s := by
  have hquot : 100 * b / 100 = b := mul_div_cancel_left₀ b (by norm_num)
  have hnear := hectopascals_nearestEven hp
  rw [hquot] at hnear
  exact FloatVal.eq_of_toRat?_eq (hnear.toRat?_eq (FloatVal.representable_of_toRat? hw hs)) hs hb

section AtSeaLevel

variable (hu : hectopascals fmt p = s) (hs : s.toRat? fmt = some b) (hb : b ≠ 0)
include hu hs hb

theorem altBase_at_sea_level : altBase fmt p s = ofInt fmt 1 := by
  rw [altBase, hu]
  exact fdiv_self hs hb

theorem altPower_at_sea_level : altPower fmt p s = ofInt fmt 1 := by
  rw [altPower, altBase_at_sea_level hu hs hb]
  exact fpow_one (constAltExp_finite fmt)

theorem altValue_at_sea_level : altValue fmt p s = .fin false 0 := by
  rw [altValue, altPower_at_sea_level hu hs hb, fsub_self ofInt_one_finite]
  exact fmul_const44330_posZero fmt

end AtSeaLevel

/-- Without pressure the power is +0, and `ALT` gives its greatest value. -/
theorem toRat?_altValue_of_isZero (hp : p.isZero = true) (hs : s.toRat? fmt = some b) (hb : b ≠ 0) :
    (altValue fmt p s).toRat? fmt = some 44330 := by
  have hu : (hectopascals fmt p).isZero = true := fdiv_isZero hp (toRat?_const100 fmt) (by norm_num)
  have hpower : altPower fmt p s = .fin false 0 :=
    fpow_constAltExp_of_isZero fmt (fdiv_isZero hu hs hb)
  have hconst : (const44330 fmt).finite = true :=
    (FloatVal.finite_iff_toRat? fmt _).2 ⟨44330, toRat?_const44330 fmt⟩
  have hvalue : altValue fmt p s = const44330 fmt := by
    rw [altValue, hpower, fsub_one_zero rfl]
    exact fmul_one (fconst_wf ..) hconst
  rw [hvalue]
  exact toRat?_const44330 fmt

section AtZeroAltitude

variable (hh : h.isZero = true)
include hh

theorem seaQuotient_isZero : (seaQuotient fmt h).isZero = true :=
  fdiv_isZero hh (toRat?_const44330 fmt) (by norm_num)

theorem seaBase_of_isZero : seaBase fmt h = ofInt fmt 1 := fsub_one_zero (seaQuotient_isZero hh)

theorem seaPower_of_isZero : seaPower fmt h = ofInt fmt 1 := by
  rw [seaPower, seaBase_of_isZero hh]
  exact fpow_one (constSeaExp_finite fmt)

theorem seaValue_of_isZero (hu : (hectopascals fmt p).finite = true) :
    seaValue fmt p h = hectopascals fmt p := by
  rw [seaValue, seaPower_of_isZero hh]
  exact fmul_one (hectopascals_wf fmt p) hu

end AtZeroAltitude

end ExactPoints

/-! ### The ideal formulas (00_scope R13, 90_conflicts C3) -/

theorem idealAlt_at_sea_level {b : ℝ} (hb : b ≠ 0) : idealAlt (100 * b) b = 0 := by
  rw [idealAlt, mul_div_cancel_left₀ b (by norm_num), div_self hb, Real.one_rpow, sub_self, mul_zero]

theorem idealAlt_zero (b : ℝ) : idealAlt 0 b = 44330 := by
  rw [idealAlt, zero_div, zero_div, Real.zero_rpow (by norm_num), sub_zero, mul_one]

theorem idealSlp_zero (a : ℝ) : idealSlp a 0 = a / 100 := by
  rw [idealSlp, zero_div, sub_zero, Real.one_rpow, mul_one]

section RoundTrip

variable {p h : ℝ} (hh : h < 44330)
include hh

theorem one_sub_div_pos : 0 < 1 - h / 44330 := by
  rw [sub_pos, div_lt_one (by norm_num)]
  exact hh

/-- The two exponents do not cancel: `5.255 * 0.1903` is `1.0000265`. -/
theorem idealAlt_idealSlp (hp : 0 < p) :
    idealAlt p (idealSlp p h) = 44330 * (1 - (1 - h / 44330) ^ (1.0000265 : ℝ)) := by
  have hb := one_sub_div_pos hh
  have hu : p / 100 ≠ 0 := by positivity
  have hratio : p / 100 / (p / 100 * (1 - h / 44330) ^ (-5.255 : ℝ)) = (1 - h / 44330) ^ (5.255 : ℝ) := by
    rw [Real.rpow_neg hb.le, ← div_div, div_self hu, one_div, inv_inv]
  rw [idealAlt, idealSlp, hratio, ← Real.rpow_mul hb.le]
  norm_num

theorem roundTrip_eq_iff : 44330 * (1 - (1 - h / 44330) ^ (1.0000265 : ℝ)) = h ↔ h = 0 := by
  have hb := one_sub_div_pos hh
  constructor
  · intro heq
    by_contra hne
    have hb1 : 1 - h / 44330 ≠ 1 := by simpa using hne
    have hfix : (1 - h / 44330) ^ (1.0000265 : ℝ) = (1 - h / 44330) ^ (1 : ℝ) := by
      rw [Real.rpow_one]
      linarith
    have hexp := (Real.rpow_right_inj hb hb1).1 hfix
    norm_num at hexp
  · rintro rfl
    simp

end RoundTrip

/-- Settles O44: at the exact points every operation is exact or an identity, P1 and P3 give the powers,
and a power with an exponent other than 1 fixes no positive base but 1. -/
theorem altitudeFormulasMeetIdealValues : Obligations.AltitudeFormulasMeetIdealValues := by
  refine ⟨fun fmt p sl a b _ hslw hp hsl hb => ⟨?_, ?_⟩, fun fmt p h a hpw hp hh => ⟨?_, ?_⟩,
    fun p h hp hh => ⟨idealAlt_idealSlp hh hp, ?_⟩⟩
  · rintro rfl
    refine ⟨altValue_at_sea_level (hectopascals_eq hp hslw hsl hb) hsl hb, ?_⟩
    push_cast
    exact idealAlt_at_sea_level (by exact_mod_cast hb)
  · rintro rfl -
    refine ⟨toRat?_altValue_of_isZero ((p.isZero_iff_toRat? fmt).2 hp) hsl hb, ?_⟩
    rw [Rat.cast_zero]
    exact idealAlt_zero b
  · rw [seaValue_of_isZero hh (hectopascals_finite hpw hp)]
    exact hectopascals_nearestEven hp
  · push_cast
    exact idealSlp_zero a
  · rw [idealAlt_idealSlp hh hp]
    exact roundTrip_eq_iff hh

/-! ### The checks (R160) -/

section Checks

variable {fmt : Fmt} {p s h : FloatVal}

theorem altChecked_of_passed (hp : p.finite = true) (hs : s.finite = true)
    (hu : (hectopascals fmt p).finite = true) (hr : (altBase fmt p s).finite = true)
    (hneg : (altBase fmt p s).ltZero = false) (hw : (altPower fmt p s).finite = true)
    (ha : (altValue fmt p s).finite = true) : altChecked fmt p s = some (altValue fmt p s) := by
  simp [altChecked, hp, hs, hu, hr, hneg, hw, ha]

theorem altChecked_of_failed (hfail : p.finite = false ∨ s.finite = false
    ∨ (hectopascals fmt p).finite = false ∨ (altBase fmt p s).finite = false
    ∨ (altBase fmt p s).ltZero = true ∨ (altPower fmt p s).finite = false
    ∨ (altValue fmt p s).finite = false) : altChecked fmt p s = none := by
  rcases hfail with h | h | h | h | h | h | h <;> simp [altChecked, h]

theorem seaChecked_of_passed (hp : p.finite = true) (hh : h.finite = true)
    (hu : (hectopascals fmt p).finite = true) (hq : (seaQuotient fmt h).finite = true)
    (hb : (seaBase fmt h).finite = true) (hneg : (seaBase fmt h).ltZero = false)
    (hw : (seaPower fmt h).finite = true) (hv : (seaValue fmt p h).finite = true) :
    seaChecked fmt p h = some (seaValue fmt p h) := by
  simp [seaChecked, hp, hh, hu, hq, hb, hneg, hw, hv]

theorem seaChecked_of_failed (hfail : p.finite = false ∨ h.finite = false
    ∨ (hectopascals fmt p).finite = false ∨ (seaQuotient fmt h).finite = false
    ∨ (seaBase fmt h).finite = false ∨ (seaBase fmt h).ltZero = true ∨ (seaPower fmt h).finite = false
    ∨ (seaValue fmt p h).finite = false) : seaChecked fmt p h = none := by
  rcases hfail with h' | h' | h' | h' | h' | h' | h' | h' <;> simp [seaChecked, h']

end Checks

/-! ### The commands (R156, R158) -/

section Commands

variable {s : State} {v : FloatVal}

theorem exec_alt_of_unwritten (h : s.eng.fP.valid = false ∨ s.eng.fS.valid = false) :
    exec .alt s = .next (s.raise .operandUnwritten) := by
  rw [exec, execAlt, Bool.and_eq_false_iff.2 h]
  rfl

theorem exec_sealvl_of_unwritten (h : s.eng.fP.valid = false ∨ s.eng.fH.valid = false) :
    exec .sealvl s = .next (s.raise .operandUnwritten) := by
  rw [exec, execSealvl, Bool.and_eq_false_iff.2 h]
  rfl

variable (hP : s.eng.fP.valid = true)
include hP

theorem exec_alt_of_none (hS : s.eng.fS.valid = true)
    (h : altChecked s.params.fmt (s.floatOf .p) (s.floatOf .s) = none) :
    exec .alt s = .next (s.raise .domainError) := by
  rw [exec, execAlt, hP, hS, h]
  rfl

theorem exec_alt_of_some (hS : s.eng.fS.valid = true)
    (h : altChecked s.params.fmt (s.floatOf .p) (s.floatOf .s) = some v) :
    exec .alt s = .next
      (State.respond { s with eng := s.eng.setFreg .a (v.toBits s.params.fmt) } 0#64) := by
  rw [exec, execAlt, hP, hS, h]
  rfl

theorem exec_sealvl_of_none (hH : s.eng.fH.valid = true)
    (h : seaChecked s.params.fmt (s.floatOf .p) (s.floatOf .h) = none) :
    exec .sealvl s = .next (s.raise .domainError) := by
  rw [exec, execSealvl, hP, hH, h]
  rfl

theorem exec_sealvl_of_some (hH : s.eng.fH.valid = true)
    (h : seaChecked s.params.fmt (s.floatOf .p) (s.floatOf .h) = some v) :
    exec .sealvl s = .next
      (State.respond { s with eng := s.eng.setFreg .s (v.toBits s.params.fmt) } 0#64) := by
  rw [exec, execSealvl, hP, hH, h]
  rfl

end Commands

/-- Settles O40: both operands are written and the checks pass, so the formula's value is written. -/
theorem altWritesAltitude : Obligations.AltWritesAltitude :=
  fun _ hP hS hp hsl hu hr hneg hw ha =>
    exec_alt_of_some hP hS (altChecked_of_passed hp hsl hu hr hneg hw ha)

/-- Settles O41, as O40. -/
theorem sealvlWritesSeaLevelPressure : Obligations.SealvlWritesSeaLevelPressure :=
  fun _ hP hH hp hh hu hq hb hneg hw hv =>
    exec_sealvl_of_some hP hH (seaChecked_of_passed hp hh hu hq hb hneg hw hv)

/-- Settles O42: an unwritten operand is raised before any check, and each failed check leaves no result. -/
theorem altitudeErrorsWriteNothing : Obligations.AltitudeErrorsWriteNothing :=
  fun _ => ⟨exec_alt_of_unwritten, exec_sealvl_of_unwritten,
    fun hP hS hfail => exec_alt_of_none hP hS (altChecked_of_failed hfail),
    fun hP hH hfail => exec_sealvl_of_none hP hH (seaChecked_of_failed hfail)⟩

/-! ### The round trip at altitude zero (R161) -/

/-- The checks of `SEALVL` pass at altitude zero, and its result is `P/100`. -/
theorem seaChecked_of_isZero {fmt : Fmt} {p h : FloatVal} (hw : p.wf fmt = true) (hp : p.finite = true)
    (hh : h.isZero = true) : seaChecked fmt p h = some (hectopascals fmt p) := by
  obtain ⟨a, ha⟩ := (p.finite_iff_toRat? fmt).1 hp
  have hu := hectopascals_finite hw ha
  have hvalue := seaValue_of_isZero hh hu
  rw [← hvalue]
  exact seaChecked_of_passed hp (FloatVal.finite_of_isZero hh) hu
    (FloatVal.finite_of_isZero (seaQuotient_isZero hh)) (seaBase_of_isZero hh ▸ ofInt_one_finite)
    (seaBase_of_isZero hh ▸ ofInt_one_ltZero fmt) (seaPower_of_isZero hh ▸ ofInt_one_finite) (hvalue ▸ hu)

/-- The checks of `ALT` pass at sea level, and its result is +0. -/
theorem altChecked_at_sea_level {fmt : Fmt} {p : FloatVal} (hp : p.finite = true)
    (hu : (hectopascals fmt p).finite = true) (hu0 : (hectopascals fmt p).isZero = false) :
    altChecked fmt p (hectopascals fmt p) = some (.fin false 0) := by
  obtain ⟨b, hb⟩ := (FloatVal.finite_iff_toRat? fmt _).1 hu
  have hb0 : b ≠ 0 := by
    rintro rfl
    rw [(FloatVal.isZero_iff_toRat? fmt _).2 hb] at hu0
    cases hu0
  have hbase := altBase_at_sea_level rfl hb hb0
  have hvalue := altValue_at_sea_level rfl hb hb0
  rw [← hvalue]
  exact altChecked_of_passed hp hu hu (hbase ▸ ofInt_one_finite) (hbase ▸ ofInt_one_ltZero fmt)
    (altPower_at_sea_level rfl hb hb0 ▸ ofInt_one_finite) (hvalue ▸ rfl)

theorem toBits_posZero (fmt : Fmt) : FloatVal.toBits fmt (.fin false 0) = 0#64 := by cases fmt <;> rfl

/-- What a floating register holds after a finite datum is written to one of them. -/
theorem State.floatOf_respond_setFreg (s : State) (r r' : FReg) {x : FloatVal} (v : BitVec 64)
    (hw : x.wf s.params.fmt = true) (hx : x.finite = true) :
    (State.respond { s with eng := s.eng.setFreg r (x.toBits s.params.fmt) } v).floatOf r'
      = if r' = r then x else s.floatOf r' := by
  rw [State.floatOf, State.respond_eng, State.respond_params, Engine.freg_setFreg]
  split
  case isTrue => exact FloatVal.ofBits_toBits_of_finite hw hx
  case isFalse => rfl

/-- Settles O43: `SEALVL` writes `P/100`, which the pattern in `S` gives back, so the base of `ALT` is one. -/
theorem roundTripAtZeroAltitudeExact : Obligations.RoundTripAtZeroAltitudeExact := by
  intro s hP hH hp hh hu0
  have hsea : seaChecked s.params.fmt (s.floatOf .p) (s.floatOf .h)
      = some (hectopascals s.params.fmt (s.floatOf .p)) :=
    seaChecked_of_isZero (FloatVal.ofBits_wf ..) hp hh
  obtain ⟨-, hu, -⟩ := seaChecked_some _ _ _ _ hsea
  refine ⟨_, _, exec_sealvl_of_some hP hH hsea, exec_alt_of_some (v := .fin false 0) hP rfl ?_, rfl, ?_, ?_⟩
  · rw [State.floatOf_respond_setFreg s .s .p 0#64 (hectopascals_wf ..) hu,
      State.floatOf_respond_setFreg s .s .s 0#64 (hectopascals_wf ..) hu]
    exact altChecked_at_sea_level hp hu hu0
  · exact congrArg (Reg.mk true) (toBits_posZero s.params.fmt)
  · exact List.append_assoc ..

end Sys2Proof.Machine
end

section
/-! PROOFS. The floating registers through the host's commands (45_host_access R170, R171). -/

namespace Sys2Proof.Machine

/-! ### The selector -/

theorem FReg.ofSel_sel (r : FReg) : FReg.ofSel r.sel = some r := by cases r <;> rfl

theorem FReg.ofSel_eq_none {n : BitVec 4} (h : 4 < n.toNat) : FReg.ofSel n = none := by
  revert n
  decide

/-- A place in the list of the five registers is the number of one of them (10_state R30). -/
theorem Engine.freg_of_getElem? {e : Engine} {n : Nat} {r : Reg 64}
    (h : [e.fT, e.fP, e.fA, e.fS, e.fH][n]? = some r) :
    ∃ f : FReg, BitVec.ofNat 4 n = f.sel ∧ e.freg f = r :=
  match n, h with
  | 0, h => ⟨.t, rfl, Option.some.inj h⟩
  | 1, h => ⟨.p, rfl, Option.some.inj h⟩
  | 2, h => ⟨.a, rfl, Option.some.inj h⟩
  | 3, h => ⟨.s, rfl, Option.some.inj h⟩
  | 4, h => ⟨.h, rfl, Option.some.inj h⟩
  | _ + 5, h => nomatch h

/-! ### The commands -/

theorem exec_wrf_sel (r : FReg) (s : State) : exec (.wrf r.sel) s = .next
    (State.respond { s with eng := s.eng.setFreg r (s.params.fmt.low s.din) } 0#64) := by
  rw [exec, execWrf, FReg.ofSel_sel]

theorem exec_wrf_of_above {n : BitVec 4} (h : 4 < n.toNat) (s : State) :
    exec (.wrf n) s = .next (s.raise .illegalCommand) := by
  rw [exec, execWrf, FReg.ofSel_eq_none h]

theorem exec_rdf_sel (r : FReg) (s : State) : exec (.rdf r.sel) s = .next
    (if (s.eng.freg r).valid then s.respond (s.params.fmt.low (s.eng.freg r).val)
      else s.raise .operandUnwritten) := by
  rw [exec, execRdf, FReg.ofSel_sel]

theorem exec_rdf_of_above {n : BitVec 4} (h : 4 < n.toNat) (s : State) :
    exec (.rdf n) s = .next (s.raise .illegalCommand) := by
  rw [exec, execRdf, FReg.ofSel_eq_none h]

/-! ### The obligations -/

/-- Settles O46: each selector up to 4 is the number of its register, and one above names none. -/
theorem wrfStoresPattern : Obligations.WrfStoresPattern := fun s =>
  ⟨exec_wrf_sel .t s, exec_wrf_sel .p s, exec_wrf_sel .a s, exec_wrf_sel .s s, exec_wrf_sel .h s,
    fun _ h => exec_wrf_of_above h s⟩

/-- Settles O47: the place in the list is a register's number, whose valid bit then decides. -/
theorem rdfAnswersPattern : Obligations.RdfAnswersPattern := by
  refine fun s => ⟨fun n r hr => ?_, fun _ h => exec_rdf_of_above h s⟩
  obtain ⟨f, hsel, rfl⟩ := Engine.freg_of_getElem? hr
  rw [hsel, exec_rdf_sel]
  constructor
  case left =>
    intro hvalid
    rw [if_pos hvalid]
    rfl
  case right =>
    intro hunwritten
    rw [if_neg (ne_true_of_eq_false hunwritten)]
    rfl

end Sys2Proof.Machine
end

section
/-! PROOFS. The engine's errors (60_exceptions R181, R183, R186): what a failed command leaves behind, which
statuses a command answers, and the run of an `LDCAL` that never sees coef-ready. -/

namespace Sys2Proof.Machine

/-! ### A failed command (R183) -/

/-- Settles O50: only the case of `exec_engine_cases` that raises an error answers a status other than `OK`. -/
theorem failedCommandChangesOnlyErr : Obligations.FailedCommandChangesOnlyErr := by
  intro i s t r h hr hfail
  have hcw : t.cw = none := by
    obtain ⟨-, -, hcw⟩ | ⟨-, hkeep, -⟩ := exec_ends_or_waits h
    · exact hcw
    · simp [hkeep] at hr
  obtain ⟨v, -, hok⟩ | ⟨x, heng, hraise⟩ | ⟨-, hkeep⟩ := exec_engine_cases h
  · obtain rfl : r = ⟨.ok, v⟩ := by simpa [hr] using hok
    exact absurd rfl hfail
  · obtain rfl : r = ⟨x, 0#64⟩ := by simpa [hr] using hraise
    exact ⟨rfl, hcw, by rw [heng, Status.first_eq]⟩
  · simp [hkeep] at hr

/-! ### The statuses of a command (R181) -/

/-- `t` ends the command `i` begun in `s` with a status that the table gives it. -/
def EndsTabled (s : State) (i : Instr) (t : State) : Prop :=
  ∃ r, t.responses = s.responses ++ [r] ∧ r.st ∈ allowedStatus i

section EndsTabled

variable {s u a b : State} {i : Instr}

theorem EndsTabled.raise {x : Status} (hx : x ∈ allowedStatus i) (hu : u.responses = s.responses := by rfl) :
    EndsTabled s i (u.raise x) := ⟨⟨x, 0#64⟩, by rw [State.raise_responses, hu], hx⟩

theorem EndsTabled.respond {v : BitVec 64} (hok : .ok ∈ allowedStatus i)
    (hu : u.responses = s.responses := by rfl) :
    EndsTabled s i (u.respond v) := ⟨⟨.ok, v⟩, by rw [State.respond_responses, hu], hok⟩

theorem EndsTabled.ite {c : Prop} [Decidable c] (ha : EndsTabled s i a) (hb : EndsTabled s i b) :
    EndsTabled s i (if c then a else b) := by
  split
  · exact ha
  · exact hb

end EndsTabled

theorem finishAltitude_endsTabled {s : State} {i : Instr} (hok : .ok ∈ allowedStatus i)
    (hdom : .domainError ∈ allowedStatus i) (r : FReg) (x : Option FloatVal) :
    EndsTabled s i (finishAltitude r x s) := by
  obtain ⟨-, h⟩ | ⟨v, -, h⟩ := finishAltitude_cases r x s <;> rw [h]
  · exact .raise hdom
  · exact .respond hok

theorem loadRaw_endsTabled {i : Instr} (hok : .ok ∈ allowedStatus i) (hbus : .busError ∈ allowedStatus i)
    (ch : Channel) (s : State) : EndsTabled s i (loadRaw ch s) := by
  obtain ⟨-, h⟩ | ⟨b, -, h⟩ := loadRaw_cases ch s <;> rw [h]
  · exact .raise hbus
  · exact .respond hok

theorem ldcalStep_endsTabled_or_keeps (s : State) :
    EndsTabled s .ldcal (ldcalStep s) ∨ (ldcalStep s).responses = s.responses := by
  obtain ⟨-, h⟩ | ⟨-, h⟩ | ⟨-, h⟩ := ldcalStep_cases s <;> rw [h]
  · obtain ⟨-, h⟩ | ⟨b, -, h⟩ := pollCoefReady_cases s <;> rw [h]
    · exact .inl (.raise (by decide))
    · exact .inr rfl
  · exact .inr rfl
  · obtain ⟨-, h⟩ | ⟨b, -, h⟩ := loadBlock_cases s <;> rw [h]
    · exact .inl (.raise (by decide))
    · exact .inl (.respond (by decide))

theorem exec_rdcoef_endsTabled (k : BitVec 4) (s : State) :
    ∃ t, exec (.rdcoef k) s = .next t ∧ EndsTabled s (.rdcoef k) t := by
  cases hv : s.eng.coefs.values[k.toNat]? with
  | none =>
    have hk : ¬ k.toNat ≤ 8 := Nat.not_le.2 (List.getElem?_eq_none_iff.1 hv)
    exact ⟨_, exec_rdcoef_of_none hv, .raise (by simp [allowedStatus, hk])⟩
  | some v =>
    have hk : k.toNat ≤ 8 := Nat.le_of_lt_succ (List.getElem?_eq_some_iff.1 hv).1
    exact ⟨_, exec_rdcoef_of_some hv,
      .ite (.respond (by simp [allowedStatus, hk])) (.raise (by simp [allowedStatus, hk]))⟩

/-- A selector up to 4 is the number of a floating register (10_state R30). -/
theorem FReg.exists_sel_eq {n : BitVec 4} (h : n.toNat ≤ 4) : ∃ r : FReg, n = r.sel := by
  have hsome : ∀ m : BitVec 4, m.toNat ≤ 4 → FReg.ofSel m ≠ none := by decide
  obtain ⟨r, hr⟩ := Option.ne_none_iff_exists'.1 (hsome n h)
  exact ⟨r, FReg.eq_sel_of_ofSel hr⟩

theorem exec_wrf_endsTabled (n : BitVec 4) (s : State) :
    ∃ t, exec (.wrf n) s = .next t ∧ EndsTabled s (.wrf n) t := by
  rcases Nat.lt_or_ge 4 n.toNat with hn | hn
  · exact ⟨_, exec_wrf_of_above hn s, .raise (by simp [allowedStatus, Nat.not_le.2 hn])⟩
  · obtain ⟨r, rfl⟩ := FReg.exists_sel_eq hn
    exact ⟨_, exec_wrf_sel r s, .respond (by simp [allowedStatus, hn])⟩

theorem exec_rdf_endsTabled (n : BitVec 4) (s : State) :
    ∃ t, exec (.rdf n) s = .next t ∧ EndsTabled s (.rdf n) t := by
  rcases Nat.lt_or_ge 4 n.toNat with hn | hn
  · exact ⟨_, exec_rdf_of_above hn s, .raise (by simp [allowedStatus, Nat.not_le.2 hn])⟩
  · obtain ⟨r, rfl⟩ := FReg.exists_sel_eq hn
    exact ⟨_, exec_rdf_sel r s,
      .ite (.respond (by simp [allowedStatus, hn])) (.raise (by simp [allowedStatus, hn]))⟩

/-- All a command can answer: a status of its row in the table, or, not yet ended, nothing. -/
theorem exec_endsTabled_or_keeps (i : Instr) (s : State) : ∃ t, exec i s = .next t ∧
    (EndsTabled s i t ∨ t.responses = s.responses) := by
  cases i with
  | ldcal => exact ⟨_, rfl, ldcalStep_endsTabled_or_keeps s⟩
  | sext12 | sext16 | sext20 | sext24 | setos | setraw | rdstat =>
    exact ⟨_, rfl, .inl (.respond (List.mem_singleton_self _))⟩
  | ldrawp | ldrawt => exact ⟨_, rfl, .inl (loadRaw_endsTabled (by decide) (by decide) _ s)⟩
  | rdraw => exact ⟨_, rfl, .inl (.ite (.respond (.head _)) (.raise (.tail _ (.head _))))⟩
  | compt | compp =>
    exact ⟨_, rfl, .inl (.ite (.raise (by decide)) (.ite (.raise (by decide)) (.respond (by decide))))⟩
  | alt | sealvl =>
    exact ⟨_, rfl, .inl (.ite (.raise (by decide)) (finishAltitude_endsTabled (by decide) (by decide) _ _))⟩
  | rdcoef k => exact (exec_rdcoef_endsTabled k s).imp fun _ => .imp_right .inl
  | wrf n => exact (exec_wrf_endsTabled n s).imp fun _ => .imp_right .inl
  | rdf n => exact (exec_rdf_endsTabled n s).imp fun _ => .imp_right .inl

/-- Settles O51: the one response has a status of the command's row, and an `OK` leaves `ERR` in each case of
`exec_engine_cases`. -/
theorem statusesAsTabled : Obligations.StatusesAsTabled := by
  intro i s t r h hr
  constructor
  case left =>
    obtain ⟨t', ht, hend⟩ := exec_endsTabled_or_keeps i s
    obtain rfl := Host.Outcome.next.inj (ht.symm.trans h)
    obtain ⟨r', hr', hmem⟩ | hkeep := hend
    · obtain rfl : r = r' := by simpa [hr] using hr'
      exact hmem
    · simp [hkeep] at hr
  case right =>
    intro hok
    obtain ⟨v, hans, -⟩ | ⟨x, heng, hraise⟩ | ⟨heng, -⟩ := exec_engine_cases h
    · exact hans.err
    · obtain rfl : r = ⟨x, 0#64⟩ := by simpa [hr] using hraise
      obtain rfl : x = .ok := hok
      rw [heng, Status.first_ok_right]
    · rw [heng]

/-! ### `LDCAL` without end (R186) -/

/-- `t` is `s` a number of polls and sleeps of an `LDCAL` later. -/
structure WaitsOn (n : Nat) (s t : State) : Prop where
  /-- Nothing but the history and the phase has moved. -/
  keeps : t = { s with history := t.history, phase := t.phase }
  waiting : t.phase ≠ .block
  /-- Each poll and each sleep is one event. -/
  events : t.history.length = s.history.length + n

theorem WaitsOn.zero {s : State} (h : s.phase ≠ .block) : WaitsOn 0 s s := ⟨rfl, h, rfl⟩

theorem WaitsOn.trans {m n : Nat} {s t u : State} (h : WaitsOn m s t) (h' : WaitsOn n t u) :
    WaitsOn (m + n) s u where
  keeps := h'.keeps.trans (by rw [h.keeps])
  waiting := h'.waiting
  events := by rw [h'.events, h.events, Nat.add_assoc]

/-- An image that lists a byte answers a read of it alone. -/
theorem State.readData_of_listed {s : State} {a : BitVec 7} {b : Byte} (hscript : s.script = [])
    (hb : Image.read s.image a.toNat = some b) : s.readData a 1 = some [b] := by
  rw [State.readData_of_covers hscript (by simp [Image.covers, hb])]
  simp [Image.bytes, hb]

/-- With no script a read moves nothing but the history. -/
theorem State.afterRead_of_no_script {s : State} (h : s.script = []) (a : BitVec 7) (n : Nat) :
    s.afterRead a n
      = { s with history := s.history ++ [.transfer (readFrame a n) (s.answer (readFrame a n))] } := by
  rw [State.afterRead, State.afterTransfer, h, List.tail_nil, ← h]

/-- One step of an `LDCAL` whose static image never shows coef-ready: one more poll or one more sleep. -/
theorem ldcalStep_waitsOn {s : State} {b : Byte} (hcw : s.cw = some (encode .ldcal))
    (hphase : s.phase ≠ .block) (hscript : s.script = [])
    (hb : Image.read s.image measStatus.toNat = some b) (hnot : b.getLsbD 7 = false) :
    WaitsOn 1 s (ldcalStep s) := by
  cases hp : s.phase with
  | poll =>
    have hread : s.readData measStatus 1 = some [b] := State.readData_of_listed hscript hb
    have hbit : ¬ statusBit [b] 7 = true := ne_true_of_eq_false hnot
    rw [ldcalStep_of_poll_answered hcw hp hread, if_neg hbit, State.afterRead_of_no_script hscript]
    exact ⟨rfl, nofun, List.length_append⟩
  | sleep =>
    rw [ldcalStep_of_sleep hp, State.stillExecuting, ← hcw]
    exact ⟨rfl, nofun, List.length_append⟩
  | block => exact absurd hp hphase

/-- Settles O26, by induction on the number of steps, from any poll or sleep of the `LDCAL`. -/
theorem ldcalHangsWhenNeverReady : Obligations.LdcalHangsWhenNeverReady := by
  intro s b hr hcw hp hscript hb hnot n
  have hphase : s.phase ≠ .block := by simp [hp]
  clear hp
  suffices h : ∃ t, Host.Core.run core n s = .next t ∧ WaitsOn n s t by
    obtain ⟨t, hrun, hwait⟩ := h
    exact ⟨t, hrun, hwait.keeps, hwait.waiting, hwait.events⟩
  induction n generalizing s with
  | zero => exact ⟨s, rfl, .zero hphase⟩
  | succ n ih =>
    have hone : WaitsOn 1 s (ldcalStep s) := ldcalStep_waitsOn hcw hphase hscript hb hnot
    obtain ⟨t, hrun, hmore⟩ := ih (ldcalStep s) ((congrArg State.rst hone.keeps).trans hr)
      ((congrArg State.cw hone.keeps).trans hcw) ((congrArg State.script hone.keeps).trans hscript)
      ((congrArg (Image.read ·.image 0x08) hone.keeps).trans hb) hone.waiting
    refine ⟨t, (run_succ_of_ldcal hr hcw n).trans hrun, ?_⟩
    rw [Nat.add_comm n 1]
    exact hone.trans hmore

end Sys2Proof.Machine
end

section
/-! PROOFS. The host's duties (60_exceptions R200 to R206): what each action is, what its transactions make of
it, and the obligations. -/

namespace Sys2Proof.Machine

/-! ### A step of the machine while the host acts -/

/-- The host has taken up its next action, and these are left. -/
def State.leaving (s : State) (rest : List HostAction) : State := { s with pending := rest }

section Step

variable {s : State} {rest : List HostAction} (hr : s.rst = []) (hcw : s.cw = none)
include hr hcw

theorem step_of_quiet_port : step s = hostMove s := by
  have hquiet : s.rstAsserted = false := by rw [State.rstAsserted, hr, List.headD_nil]
  have htick : s.tickRst = s := by rw [State.tickRst, hr, List.tail_nil, ← hr]
  rw [step_of_port_free hquiet hcw, htick]

theorem step_of_pending {a : HostAction} (hp : s.pending = a :: rest) :
    step s = hostMove { s.leaving rest with pending := a :: rest } := by
  rw [step_of_quiet_port hr hcw, ← hp]
  rfl

theorem step_readReg {a : Byte} {x : BitVec 7} (ha : sensorAddr a = some x)
    (hp : s.pending = .readReg a :: rest) : step s = .next (hostRead x (s.leaving rest)) := by
  simp [step_of_pending hr hcw hp, hostMove, ha, State.leaving]

theorem step_writeReg {a v : Byte} {x : BitVec 7} (ha : sensorAddr a = some x)
    (hp : s.pending = .writeReg a v :: rest) : step s = .next (hostWrite x v (s.leaving rest)) := by
  simp [step_of_pending hr hcw hp, hostMove, ha, State.leaving]

theorem step_access_outside {a v : Byte} (ha : sensorAddr a = none)
    (hp : s.pending = .readReg a :: rest ∨ s.pending = .writeReg a v :: rest) :
    step s = .fault .noSuchAddress := by
  obtain hp | hp := hp <;> simp [step_of_pending hr hcw hp, hostMove, ha]

theorem step_setMode {mode : OperatingMode} (hp : s.pending = .setMode mode :: rest) :
    step s = .next (hostSetMode mode (s.leaving rest)) := step_of_pending hr hcw hp

theorem step_configureChannel {ch : Channel} {rate level : BitVec 3}
    (hp : s.pending = .configureChannel ch rate level :: rest) :
    step s = .next (hostConfigure ch rate level (s.leaving rest)) := step_of_pending hr hcw hp

theorem step_sensorReset (hp : s.pending = .sensorReset :: rest) :
    step s = .next (hostSensorReset (s.leaving rest)) := step_of_pending hr hcw hp

theorem step_waitSensorReady (hp : s.pending = .waitSensorReady :: rest) : step s
    = .next (hostWait 0x40#8 20 .waitSensorReady reissueAfterReset (s.leaving rest)) :=
  step_of_pending hr hcw hp

theorem step_waitMeasurement {ms : Nat} (hp : s.pending = .waitMeasurement ms :: rest) : step s
    = .next (hostWait 0x30#8 ms (.waitMeasurement ms) id (s.leaving rest)) :=
  step_of_pending hr hcw hp

theorem step_checkProductId (hp : s.pending = .checkProductId :: rest) :
    step s = .next (hostCheckId (s.leaving rest)) := step_of_pending hr hcw hp

end Step

/-! ### The duties, by what the bus answers -/

section Duties

variable {s : State} {x : BitVec 7} {b : Byte}

/-- The result of a write: `BusError` when it fails (R200). -/
def State.writeResult (s : State) (x : BitVec 7) (v : Byte) : HostResult :=
  if s.writeOk x v then .ok else .busError

theorem hostRead_of_failed (h : s.readData x 1 = none) :
    hostRead x s = (s.afterRead x 1).logHost .busError := by
  rw [hostRead, h]

theorem hostRead_of_answered (h : s.readData x 1 = some [b]) :
    hostRead x s = (s.afterRead x 1).logHost (.value b) := by
  simp [hostRead, h]

theorem hostWrite_eq (x : BitVec 7) (v : Byte) (s : State) :
    hostWrite x v s = (s.afterWrite x v).logHost (s.writeResult x v) := by
  rw [hostWrite, State.writeResult]
  split <;> rfl

section Modify

variable {f : Byte → Byte} {after : State → State}

/-- The state after a read of a register and a write to it. -/
def State.afterModify (s : State) (x : BitVec 7) (v : Byte) : State := (s.afterRead x 1).afterWrite x v

theorem hostModify_of_read_failed (h : s.readData x 1 = none) :
    hostModify x f after s = (s.afterRead x 1).logHost .busError := by
  rw [hostModify, h]

theorem hostModify_of_write_failed (h : s.readData x 1 = some [b])
    (hw : (s.afterRead x 1).writeOk x (f b) = false) :
    hostModify x f after s = (s.afterModify x (f b)).logHost .busError := by
  simp [hostModify, State.afterModify, h, hw]

theorem hostModify_of_written (h : s.readData x 1 = some [b])
    (hw : (s.afterRead x 1).writeOk x (f b) = true) :
    hostModify x f after s = after (s.afterModify x (f b)) := by
  simp [hostModify, State.afterModify, h, hw]

/-- A read-modify-write with nothing after it logs the result of its write. -/
theorem hostModify_logHost_of_answered (h : s.readData x 1 = some [b]) :
    hostModify x f (·.logHost .ok) s = (s.afterModify x (f b)).logHost
      ((s.afterRead x 1).writeResult x (f b)) := by
  rw [State.writeResult]
  split
  case isTrue hw => exact hostModify_of_written h hw
  case isFalse hw => exact hostModify_of_write_failed h (eq_false_of_ne_true hw)

end Modify

section Wait

variable {mask : Byte} {ms : Nat} {a : HostAction} {after : State → State}

theorem hostWait_of_failed (h : s.readData 0x08#7 1 = none) :
    hostWait mask ms a after s = (s.afterRead 0x08#7 1).logHost .busError := by
  rw [hostWait, h]

theorem hostWait_of_ready (h : s.readData 0x08#7 1 = some [b]) (hb : b &&& mask = mask) :
    hostWait mask ms a after s = after ((s.afterRead 0x08#7 1).logHost .ok) := by
  simp [hostWait, h, hb]

theorem hostWait_of_not_ready (h : s.readData 0x08#7 1 = some [b]) (hb : b &&& mask ≠ mask) :
    hostWait mask ms a after s = ((s.afterRead 0x08#7 1).sleep ms).queue [a] := by
  simp [hostWait, h, hb]

end Wait

theorem hostSensorReset_of_written (h : s.writeOk 0x0C#7 0x89#8 = true) :
    hostSensorReset s = ((s.afterWrite 0x0C#7 0x89#8).sleep 10).queue [.waitSensorReady] := by
  rw [hostSensorReset, if_pos h]

theorem hostSensorReset_of_failed (h : s.writeOk 0x0C#7 0x89#8 = false) :
    hostSensorReset s = (s.afterWrite 0x0C#7 0x89#8).logHost .busError := by
  rw [hostSensorReset, if_neg (ne_true_of_eq_false h)]

theorem hostCheckId_of_failed (h : s.readData 0x0D#7 1 = none) :
    hostCheckId s = (s.afterRead 0x0D#7 1).logHost .busError := by
  rw [hostCheckId, h]

theorem hostCheckId_of_match (h : s.readData 0x0D#7 1 = some [0x10#8]) :
    hostCheckId s = (s.afterRead 0x0D#7 1).logHost .ok := by
  simp [hostCheckId, h]

theorem hostCheckId_of_mismatch (h : s.readData 0x0D#7 1 = some [b]) (hb : b ≠ 0x10#8) :
    hostCheckId s = State.logHost { s.afterRead 0x0D#7 1 with pending := [] } .unexpectedDeviceId := by
  simp [hostCheckId, h, hb]

section SetMode

variable {mode : OperatingMode}

theorem hostSetMode_of_rejected (h : modeRejected mode s.hostP.level s.hostT.level = true) :
    hostSetMode mode s = s.logHost .invalidMode := by
  rw [hostSetMode, if_pos h]

theorem hostSetMode_of_accepted (h : modeRejected mode s.hostP.level s.hostT.level = false) :
    hostSetMode mode s
      = hostModify 0x08#7 (fun b => (b &&& 0xF8#8) ||| mode.code.setWidth 8) (·.logHost .ok) s := by
  rw [hostSetMode, if_neg (ne_true_of_eq_false h)]

end SetMode

/-! What the host remembers is nothing to the bus (20_memory R57). -/

section CommitConfig

variable (s : State) (ch : Channel) (c : ChannelConfig) (x : BitVec 7)

@[simp] theorem State.readData_commitConfig (n : Nat) :
    (s.commitConfig ch c).readData x n = s.readData x n := by cases ch <;> rfl
@[simp] theorem State.writeOk_commitConfig (v : Byte) :
    (s.commitConfig ch c).writeOk x v = s.writeOk x v := by cases ch <;> rfl
@[simp] theorem State.afterRead_commitConfig (n : Nat) :
    (s.commitConfig ch c).afterRead x n = (s.afterRead x n).commitConfig ch c := by cases ch <;> rfl
@[simp] theorem State.afterModify_commitConfig (v : Byte) :
    (s.commitConfig ch c).afterModify x v = (s.afterModify x v).commitConfig ch c := by cases ch <;> rfl

end CommitConfig

section Configure

variable {ch : Channel} {rate level : BitVec 3}

/-- The configuration byte that the host writes (R203). -/
def State.newConfigByte (s : State) (ch : Channel) (rate level : BitVec 3) : Byte :=
  configByte (Config.configBit7 ch s.history) rate level

/-- The state after that byte was written. -/
def State.afterConfigWrite (s : State) (ch : Channel) (rate level : BitVec 3) : State :=
  s.afterWrite (configAddr ch) (s.newConfigByte ch rate level)

theorem hostConfigure_of_over_budget (h : s.withinBudget ch ⟨rate, level⟩ = false) :
    hostConfigure ch rate level s = s.logHost .invalidRateOversamplingCombination := by
  simp [hostConfigure, h]

theorem hostConfigure_of_failed (h : s.withinBudget ch ⟨rate, level⟩ = true)
    (hw : s.writeOk (configAddr ch) (s.newConfigByte ch rate level) = false) :
    hostConfigure ch rate level s = (s.afterConfigWrite ch rate level).logHost .busError := by
  rw [State.newConfigByte] at hw
  simp [hostConfigure, State.afterConfigWrite, State.newConfigByte, h, hw]

theorem hostConfigure_of_written (h : s.withinBudget ch ⟨rate, level⟩ = true)
    (hw : s.writeOk (configAddr ch) (s.newConfigByte ch rate level) = true) :
    hostConfigure ch rate level s
      = hostModify 0x09#7 (withShift ch level) (fun u => (u.logHost .ok).queue [presentSetos ch level])
        ((s.afterConfigWrite ch rate level).commitConfig ch ⟨rate, level⟩) := by
  rw [State.newConfigByte] at hw
  simp [hostConfigure, State.afterConfigWrite, State.newConfigByte, h, hw]

theorem hostConfigure_of_read_failed (h : s.withinBudget ch ⟨rate, level⟩ = true)
    (hw : s.writeOk (configAddr ch) (s.newConfigByte ch rate level) = true)
    (hread : (s.afterConfigWrite ch rate level).readData 0x09#7 1 = none) :
    hostConfigure ch rate level s
      = (((s.afterConfigWrite ch rate level).afterRead 0x09#7 1).commitConfig ch ⟨rate, level⟩).logHost
        .busError := by
  rw [hostConfigure_of_written h hw, hostModify_of_read_failed (by rwa [State.readData_commitConfig])]
  simp

theorem hostConfigure_of_shift_failed (h : s.withinBudget ch ⟨rate, level⟩ = true)
    (hw : s.writeOk (configAddr ch) (s.newConfigByte ch rate level) = true)
    (hread : (s.afterConfigWrite ch rate level).readData 0x09#7 1 = some [b])
    (hshift : ((s.afterConfigWrite ch rate level).afterRead 0x09#7 1).writeOk
      0x09#7 (withShift ch level b) = false) :
    hostConfigure ch rate level s
      = (((s.afterConfigWrite ch rate level).afterModify 0x09#7 (withShift ch level b)).commitConfig
        ch ⟨rate, level⟩).logHost .busError := by
  rw [hostConfigure_of_written h hw,
    hostModify_of_write_failed (b := b) (by rwa [State.readData_commitConfig]) (by simpa using hshift)]
  simp

theorem hostConfigure_of_armed (h : s.withinBudget ch ⟨rate, level⟩ = true)
    (hw : s.writeOk (configAddr ch) (s.newConfigByte ch rate level) = true)
    (hread : (s.afterConfigWrite ch rate level).readData 0x09#7 1 = some [b])
    (hshift : ((s.afterConfigWrite ch rate level).afterRead 0x09#7 1).writeOk
      0x09#7 (withShift ch level b) = true) :
    hostConfigure ch rate level s
      = ((((s.afterConfigWrite ch rate level).afterModify 0x09#7 (withShift ch level b)).commitConfig
        ch ⟨rate, level⟩).logHost .ok).queue [presentSetos ch level] := by
  rw [hostConfigure_of_written h hw,
    hostModify_of_written (b := b) (by rwa [State.readData_commitConfig]) (by simpa using hshift)]
  simp

end Configure

end Duties

/-! ### Register access (R200) -/

theorem sensorAddr_of_inside {a : Byte} (h : a.toNat < 128) : sensorAddr a = some (a.setWidth 7) := by
  have hflag : a.getLsbD 7 = false := (BitVec.msb_eq_decide a).trans (decide_eq_false (Nat.not_le.2 h))
  rw [sensorAddr, if_neg (ne_true_of_eq_false hflag)]

/-- Settles O56: an address with bit 7 clear is one transaction, and any other stops the machine. -/
theorem hostRegisterAccess : Obligations.HostRegisterAccess := by
  refine fun s a v rest hr hcw => ⟨fun ha hp => ⟨fun b hread => ?_, fun hfail => ?_⟩, fun ha hp => ?_,
    fun ha hp => step_access_outside hr hcw ((sensorAddr_eq_none_iff a).2 ha) hp⟩
  · rw [step_readReg hr hcw (sensorAddr_of_inside ha) hp, hostRead_of_answered (s := s.leaving rest) hread]
    rfl
  · rw [step_readReg hr hcw (sensorAddr_of_inside ha) hp, hostRead_of_failed (s := s.leaving rest) hfail]
    rfl
  · rw [step_writeReg hr hcw (sensorAddr_of_inside ha) hp, hostWrite_eq]
    rfl

/-! ### The readiness waits and the sensor's reset (R204 to R206) -/

/-- An action that puts itself first again, after a read and a sleep, is still the next one. -/
theorem State.queue_after_round {s : State} {a : HostAction} {rest : List HostAction}
    (hp : s.pending = a :: rest) (x : BitVec 7) (ms : Nat) :
    (((s.leaving rest).afterRead x 1).sleep ms).queue [a] = (s.afterRead x 1).sleep ms := by
  change { (s.afterRead x 1).sleep ms with pending := a :: rest } = (s.afterRead x 1).sleep ms
  rw [← hp]
  rfl

/-- Bit 6 is sensor-ready (20_memory R60). -/
theorem sensorReady_iff (b : Byte) : b &&& 0x40#8 = 0x40#8 ↔ b.getLsbD 6 = true := by
  revert b
  decide

/-- Bits 5 and 4 are temperature-ready and pressure-ready (20_memory R60). -/
theorem measurementReady_iff (b : Byte) :
    b &&& 0x30#8 = 0x30#8 ↔ b.getLsbD 5 = true ∧ b.getLsbD 4 = true := by
  revert b
  decide

/-- Settles O58: the write, the settle and the queued wait; then each round of that wait. -/
theorem sensorResetWritesThenWaits : Obligations.SensorResetWritesThenWaits := by
  refine fun s rest hr hcw => ⟨fun hp => ?reset, fun hp => ?wait⟩
  case reset =>
    rw [step_sensorReset hr hcw hp]
    refine ⟨fun hok => ?_, fun hfail => ?_⟩
    · rw [hostSensorReset_of_written (s := s.leaving rest) hok]
      rfl
    · rw [hostSensorReset_of_failed (s := s.leaving rest) hfail]
      rfl
  case wait =>
    rw [step_waitSensorReady hr hcw hp]
    refine ⟨fun hfail => ?_, fun b hread => ⟨fun hready => ?_, fun hnot => ?_⟩⟩
    · rw [hostWait_of_failed (s := s.leaving rest) hfail]
      rfl
    · rw [hostWait_of_ready (s := s.leaving rest) hread ((sensorReady_iff b).2 hready)]
      exact ⟨_, _, rfl⟩
    · have hmask : b &&& 0x40#8 ≠ 0x40#8 := mt (sensorReady_iff b).1 (ne_true_of_eq_false hnot)
      rw [hostWait_of_not_ready (s := s.leaving rest) hread hmask, State.queue_after_round hp]
      rfl

/-- Settles O59: each round of the measurement wait, and the product id compared as a whole byte. -/
theorem waitMeasurementAndProductId : Obligations.WaitMeasurementAndProductId := by
  refine fun s ms rest hr hcw => ⟨fun hp => ?wait, fun hp => ?checkId⟩
  case wait =>
    rw [step_waitMeasurement hr hcw hp]
    refine ⟨fun hfail => ?_, fun b hread => ⟨fun h5 h4 => ?_, fun hnot => ?_⟩⟩
    · rw [hostWait_of_failed (s := s.leaving rest) hfail]
      rfl
    · rw [hostWait_of_ready (s := s.leaving rest) hread ((measurementReady_iff b).2 ⟨h5, h4⟩)]
      rfl
    · have hmask : b &&& 0x30#8 ≠ 0x30#8 := by
        rw [Ne, measurementReady_iff, not_and_or, Bool.not_eq_true, Bool.not_eq_true]
        exact hnot
      rw [hostWait_of_not_ready (s := s.leaving rest) hread hmask, State.queue_after_round hp]
      rfl
  case checkId =>
    rw [step_checkProductId hr hcw hp]
    refine ⟨fun hfail => ?_, fun b hread => ⟨fun heq => ?_, fun hne => ?_⟩⟩
    · rw [hostCheckId_of_failed (s := s.leaving rest) hfail]
      rfl
    · rw [hostCheckId_of_match (s := s.leaving rest) (heq ▸ hread)]
      rfl
    · rw [hostCheckId_of_mismatch (s := s.leaving rest) hread hne]
      rfl

/-! ### `setMode` (R201) -/

/-- A level is nonzero exactly when the sum of the two is positive (log 20). -/
theorem levels_sum_pos_iff (p t : BitVec 3) : 0 < p.toNat + t.toNat ↔ p ≠ 0#3 ∨ t ≠ 0#3 := by
  bv_omega

/-- The modes that are rejected, by name. -/
theorem modeRejected_iff (mode : OperatingMode) (p t : BitVec 3) : modeRejected mode p t = true ↔
    mode = .invalid1 ∨ mode = .invalid2
      ∨ ((mode = .idle ∨ mode = .pressureOnly ∨ mode = .temperatureOnly) ∧ (p ≠ 0#3 ∨ t ≠ 0#3)) := by
  have hsum := levels_sum_pos_iff p t
  cases mode <;> simp [modeRejected, OperatingMode.code, hsum]

/-- Settles O55: the rejected modes by name, then a read-modify-write of MEAS_STATUS. -/
theorem setModeChecksThenRewrites : Obligations.SetModeChecksThenRewrites := by
  intro s mode rest hr hcw hp bad
  have hbad : modeRejected mode (s.leaving rest).hostP.level (s.leaving rest).hostT.level = true ↔ bad :=
    modeRejected_iff ..
  rw [step_setMode hr hcw hp]
  refine ⟨fun h => ?_, fun h hfail => ?_, fun h b hread => ?_⟩
  · rw [hostSetMode_of_rejected (hbad.2 h)]
    rfl
  · rw [hostSetMode_of_accepted (eq_false_of_ne_true (mt hbad.1 h)),
      hostModify_of_read_failed (s := s.leaving rest) hfail]
    rfl
  · rw [hostSetMode_of_accepted (eq_false_of_ne_true (mt hbad.1 h)),
      hostModify_logHost_of_answered (s := s.leaving rest) hread]
    rfl

/-! ### `configureChannel` (R203) -/

/-- Settles O57: the budget, the configuration byte, then a read-modify-write of FILTER_CONFIG after which
`SETOS` is queued. -/
theorem configureChannelArmsSensorThenEngine : Obligations.ConfigureChannelArmsSensorThenEngine := by
  intro s ch rate level rest hr hcw hp budget addr shift
  have hbudget : (s.leaving rest).withinBudget ch ⟨rate, level⟩ = budget := by cases ch <;> rfl
  have haddr : configAddr ch = addr := by cases ch <;> rfl
  have hshift : shiftBit ch = shift := by cases ch <;> rfl
  clear_value budget addr shift
  subst hbudget haddr hshift
  rw [step_configureChannel hr hcw hp]
  refine ⟨fun hover => ?_, fun hin => ⟨fun hfail => ?_, fun hok hfail => ?_, fun hok b hread =>
    ⟨fun hfail => ?_, fun hwritten => ?_⟩⟩⟩
  · rw [hostConfigure_of_over_budget hover]
    rfl
  · rw [hostConfigure_of_failed hin hfail]
    rfl
  · rw [hostConfigure_of_read_failed hin hok hfail]
    cases ch <;> rfl
  · rw [hostConfigure_of_shift_failed hin hok hread hfail]
    cases ch <;> rfl
  · rw [hostConfigure_of_armed hin hok hread hwritten]
    cases ch <;> rfl

end Sys2Proof.Machine
end

section
/-! PROOFS. `RST` (70_reset R220 to R222): the step that samples it, and what it cuts of the command at the
port. -/

namespace Sys2Proof.Machine

theorem step_of_rst {s : State} (hr : s.rstAsserted = true) : step s = .next s.tickRst.applyRst := by
  simp [step, hr]

@[simp] theorem State.tickRst_cutEvents (s : State) : s.tickRst.cutEvents = s.cutEvents := rfl

/-! ### What is cut (R221, log 9) -/

/-- What is cut of a command whose own word is at the port. -/
theorem State.cutEvents_of_encode {s : State} {i : Instr} (hi : i.WellFormed)
    (hcw : s.cw = some (encode i)) : s.cutEvents = cutBy s.phase i := by
  simp [State.cutEvents, hcw, decode_encode hi]

/-- The commands that use the bus, by name (20_memory R51). -/
theorem usesBus_iff (i : Instr) : usesBus i = true ↔ i = .ldcal ∨ i = .ldrawp ∨ i = .ldrawt := by
  cases i <;> simp [usesBus]

/-- Nothing is cut unless the port holds the word of one of the three bus commands: an illegal word, a
command of another kind and a free port leave nothing to cut. -/
theorem State.cutEvents_eq_nil {s : State} (hcal : s.cw ≠ some (encode .ldcal))
    (hrawp : s.cw ≠ some (encode .ldrawp)) (hrawt : s.cw ≠ some (encode .ldrawt)) :
    s.cutEvents = [] := by
  unfold State.cutEvents
  split
  · rfl
  · rename_i w hcw
    split
    · rename_i i hw
      have henc : s.cw = some (encode i) := by rw [hcw, (encode_of_decode hw).2]
      refine cutBy_of_no_bus s.phase i (eq_false_of_ne_true fun hbus => ?_)
      obtain rfl | rfl | rfl := (usesBus_iff i).1 hbus
      · exact hcal henc
      · exact hrawp henc
      · exact hrawt henc
    · rfl

/-- Settles O12: the step is `applyRst`, whose fields are read off; what it adds to the history is what
it cuts of the command at the port. -/
theorem rstResetsFromAnyState : Obligations.RstResetsFromAnyState := by
  intro s hr
  refine ⟨s.tickRst.applyRst, step_of_rst hr, rfl, rfl, rfl, rfl, rfl, rfl, rfl, rfl, rfl, rfl, rfl, rfl,
    rfl, fun hcw => ?ldcal, fun hcw => ?ldrawp, fun hcw => ?ldrawt, fun hcal hrawp hrawt => ?other⟩ <;>
    rw [State.applyRst_history, State.tickRst_history, State.tickRst_cutEvents]
  case ldcal =>
    rw [State.cutEvents_of_encode (i := .ldcal) rfl hcw]
    cases s.phase <;> rfl
  case ldrawp =>
    rw [State.cutEvents_of_encode (i := .ldrawp) rfl hcw]
    rfl
  case ldrawt =>
    rw [State.cutEvents_of_encode (i := .ldrawt) rfl hcw]
    rfl
  case other => rw [State.cutEvents_eq_nil hcal hrawp hrawt, List.append_nil]

end Sys2Proof.Machine
end
